-- ==== Sys2Proof/Word.lean ====
section
/-! DEFINITION. The two widths of the core (00_scope.md R6): 8-bit registers and memory cells, 16-bit pairs, SP, PC and
addresses. -/

namespace Sys2Proof

/-- An 8-bit register or memory cell (R6, R21, R50). Arithmetic wraps modulo 2^8 (R159). -/
abbrev Byte := BitVec 8

/-- A 16-bit pair, SP, PC or address (R6, R30, R31). Arithmetic wraps modulo 2^16 (R55, R159). -/
abbrev Word := BitVec 16

end Sys2Proof
end

