-- ==== Sys2Proof/Config.lean ====
section
/-! DEFINITION. The parameters of the core that 00_scope.md R6 leaves to a model: which instruction table, which
auxiliary-carry rule, which pair-addition carry rule, and the register presets of construction. -/

namespace Sys2Proof

/-- `INSTR_TABLE` (R6, R84): the reference table or the subset that INV's scenarios show. -/
inductive InstrTable where
  | tRef
  | tDoc
  deriving DecidableEq, Repr

/-- `AUX_CARRY_RULE` (R6, R124, R125). -/
inductive AuxCarryRule where
  | reference
  | conventional
  deriving DecidableEq, Repr

/-- `PAIR_ADD_CARRY_RULE` (R6, R128). -/
inductive PairAddCarryRule where
  | reference
  | conventional
  deriving DecidableEq, Repr

/-- The configuration fixed for a run (R6, R102). -/
structure Config where
  table        : InstrTable
  auxCarry     : AuxCarryRule
  pairAddCarry : PairAddCarryRule
  deriving DecidableEq, Repr

/-- The defaults of R6. DESIGN CHOICE of the spec (D1, D14, D15), log 2 and log 13. -/
def Config.default : Config :=
  { table := .tRef, auxCarry := .reference, pairAddCarry := .reference }

/-- `INIT_REGS` (R6, R233): the registers construction may preset. W, Z, the in-flight latch and the fault latch
cannot be preset, so they are not here. -/
structure InitRegs where
  b : Byte
  c : Byte
  d : Byte
  e : Byte
  h : Byte
  l : Byte
  a : Byte
  f : Byte
  sp : Word
  pc : Word
  deriving DecidableEq, Repr

/-- The default presets: all zero (R39). DESIGN CHOICE of the spec (D7), log 3. -/
def InitRegs.default : InitRegs :=
  { b := 0, c := 0, d := 0, e := 0, h := 0, l := 0, a := 0, f := 0, sp := 0, pc := 0 }

end Sys2Proof
end

