-- ==== Sys2Proof/Syntax.lean ====
section
/-! DEFINITION. The instructions of spec/opcode_table.json, the execute routines an entry names, and the shape of the
instruction table (30_encoding.md R70, R80). -/

namespace Sys2Proof

/-- One constructor per row of the opcode table. An operand is what the instruction's bytes hold: d8 or d16 (R70, R72). -/
inductive Instr where
  /-- NOP, R190. -/
  | nop
  /-- LXI B,d16, R140. -/
  | lxiB (d16 : Word)
  /-- STAX B, R142. -/
  | staxB
  /-- INX B, R160. -/
  | inxB
  /-- INR B, R161. -/
  | inrB
  /-- DCR B, R162. -/
  | dcrB
  /-- MVI B,d8, R141. -/
  | mviB (d8 : Byte)
  /-- RLC, R180. -/
  | rlc
  /-- DAD B, R163. -/
  | dadB
  deriving DecidableEq, Repr

/-- The execute routine an entry binds its opcode to (R80, R84), by name. -/
inductive Routine where
  | nop
  | lxiB
  | staxB
  | inxB
  | inrB
  | dcrB
  | mviB
  | rlc
  | dadB
  deriving DecidableEq, Repr

/-- The routine that an instruction runs. -/
def Instr.routine : Instr → Routine
  | .nop => .nop
  | .lxiB _ => .lxiB
  | .staxB => .staxB
  | .inxB => .inxB
  | .inrB => .inrB
  | .dcrB => .dcrB
  | .mviB _ => .mviB
  | .rlc => .rlc
  | .dadB => .dadB

/-- An entry of the instruction table: `{length, cycles, execute}` (R80). -/
structure Entry where
  length  : Nat
  cycles  : Nat
  execute : Routine
  deriving DecidableEq, Repr

/-- A row of R84: an opcode, its entry, and whether `T_DOC` has the row too. -/
structure Row where
  opcode : Byte
  entry  : Entry
  inDoc  : Bool
  deriving DecidableEq, Repr

/-- Why the decoder gives no instruction. -/
inductive DecodeError where
  /-- The table has no entry for this opcode (R81, R82, R85). -/
  | unimplementedOpcode (opcode : Byte)
  /-- The bytes given end before the instruction does. It arises for a byte list only: memory has no end (R55). -/
  | truncated (needed : Nat) (given : Nat)
  deriving DecidableEq, Repr

end Sys2Proof
end

