-- ==== Sys2Proof/WellFormed.lean ====
section
/-! DEFINITION. The checks that refuse an ill-formed entry, an ill-formed table and an instruction the table does not
admit (30_encoding.md R83, R84, R85). -/

namespace Sys2Proof

/-- R83: the length is 1, 2 or 3. -/
def Entry.lengthOk (e : Entry) : Bool := decide (1 ≤ e.length) && decide (e.length ≤ 3)

/-- R83: at least two cycles (the lower bound is the spec's choice D10, log 18). -/
def Entry.cyclesOk (e : Entry) : Bool := decide (2 ≤ e.cycles)

/-- R83's two numeric bounds. That its routine keeps PC and never faults is a fact about the meanings. -/
def Entry.wellFormed (e : Entry) : Bool := e.lengthOk && e.cyclesOk

/-- R80: the table maps each opcode to at most one entry. -/
def opcodesDistinct (rows : List Row) : Bool := decide (rows.map Row.opcode).Nodup

/-- R83: a table is admitted when every entry is well-formed and no opcode has two entries. -/
def tableWellFormed (rows : List Row) : Bool := rows.all (fun r => r.entry.wellFormed) && opcodesDistinct rows

/-- An instruction is well-formed under a table that has a row for its routine. Operand bytes are never illegal (R86),
so nothing is asked of them. -/
def Instr.wellFormed (rows : List Row) (i : Instr) : Bool := rows.any (fun r => r.entry.execute == i.routine)

end Sys2Proof
end

