-- ==== Sys2Proof/Decode.lean ====
section
/-! DEFINITION. The instruction table and the decoder of 30_encoding.md, total on any bytes, then the encoder; and the
byte-order helpers both use. -/

namespace Sys2Proof

/-- Bits 15:8 of a 16-bit value (R7, R23). -/
def hiByte (v : Word) : Byte := (v >>> 8).setWidth 8

/-- Bits 7:0 of a 16-bit value (R7, R23). -/
def loByte (v : Word) : Byte := v.setWidth 8

/-- `(high << 8) | low` (R7, R23, R72). -/
def joinBytes (high low : Byte) : Word := (high.setWidth 16 <<< 8) ||| low.setWidth 16

/-! ## The table -/

/-- R84, row by row; also opcode_table.json. PRESUMED by the spec: every opcode value but 0x00 and 0x01, and the lengths
and cycle counts it takes from the 8080 (D2, D3), log 5. -/
def tableRows : List Row :=
  [ { opcode := 0x00, entry := { length := 1, cycles := 4,  execute := .nop },   inDoc := true },
    { opcode := 0x01, entry := { length := 3, cycles := 10, execute := .lxiB },  inDoc := true },
    { opcode := 0x02, entry := { length := 1, cycles := 7,  execute := .staxB }, inDoc := true },
    { opcode := 0x03, entry := { length := 1, cycles := 5,  execute := .inxB },  inDoc := true },
    { opcode := 0x04, entry := { length := 1, cycles := 5,  execute := .inrB },  inDoc := false },
    { opcode := 0x05, entry := { length := 1, cycles := 5,  execute := .dcrB },  inDoc := false },
    { opcode := 0x06, entry := { length := 2, cycles := 7,  execute := .mviB },  inDoc := false },
    { opcode := 0x07, entry := { length := 1, cycles := 4,  execute := .rlc },   inDoc := true },
    { opcode := 0x09, entry := { length := 1, cycles := 10, execute := .dadB },  inDoc := false } ]

/-- The rows of a table (R84): `T_REF` has all nine, `T_DOC` the rows marked so. -/
def rowsOf : InstrTable → List Row
  | .tRef => tableRows
  | .tDoc => tableRows.filter (fun r => r.inDoc)

/-- `Table(op)` (R8, R80): the entry, or none. The whole opcode byte selects it (R71). -/
def lookup (t : InstrTable) (op : Byte) : Option Entry :=
  ((rowsOf t).find? (fun r => r.opcode == op)).map (fun r => r.entry)

/-- `decode(op)` of R82: the entry, or the UnimplementedOpcode condition. -/
def entryOf (t : InstrTable) (op : Byte) : Except DecodeError Entry :=
  match lookup t op with
  | some e => .ok e
  | none => .error (.unimplementedOpcode op)

/-- `lengthOf(op)` of R81. -/
def lengthOf (t : InstrTable) (op : Byte) : Except DecodeError Nat :=
  match entryOf t op with
  | .ok e => .ok e.length
  | .error r => .error r

/-! ## Decoding -/

/-- The instruction a routine runs with the operand bytes z (first) and w (second), as the latches Z and W hold them
(R57, R72): d8 is z, d16 is `(w << 8) | z`. A routine without an operand reads neither. -/
def Routine.instr (r : Routine) (z w : Byte) : Instr :=
  match r with
  | .nop => .nop
  | .lxiB => .lxiB (joinBytes w z)
  | .staxB => .staxB
  | .inxB => .inxB
  | .inrB => .inrB
  | .dcrB => .dcrB
  | .mviB => .mviB z
  | .rlc => .rlc
  | .dadB => .dadB

/-- Assembles an entry's instruction from the bytes after the opcode and gives back the rest (R70, R72, R73). -/
def takeOperands (e : Entry) (bytes : List Byte) : Except DecodeError (Instr × List Byte) :=
  match e.length, bytes with
  | 1, rest => .ok (e.execute.instr 0 0, rest)
  | 2, z :: rest => .ok (e.execute.instr z 0, rest)
  | 3, z :: w :: rest => .ok (e.execute.instr z w, rest)
  | n, rest => .error (.truncated n (rest.length + 1))

/-- The decoder on a byte stream: the first instruction and the bytes after it, or why there is none. -/
def decode (t : InstrTable) : List Byte → Except DecodeError (Instr × List Byte)
  | [] => .error (.truncated 1 0)
  | op :: rest =>
    match entryOf t op with
    | .ok e => takeOperands e rest
    | .error r => .error r

/-! ## Encoding -/

/-- The bytes of an instruction, from the encodings of R84 and opcode_table.json: the opcode, then the operand bytes
with the low byte first (R57, R70). -/
def encode : Instr → List Byte
  | .nop => [0x00]
  | .lxiB d16 => [0x01, loByte d16, hiByte d16]
  | .staxB => [0x02]
  | .inxB => [0x03]
  | .inrB => [0x04]
  | .dcrB => [0x05]
  | .mviB d8 => [0x06, d8]
  | .rlc => [0x07]
  | .dadB => [0x09]

/-! ## The opcode table's bit numbering -/

/-- Byte k of an instruction whose bits opcode_table.json numbers: bits 8k+7 down to 8k, and 0 above bit nbits. -/
def tableByte (nbits w k : Nat) : Byte := BitVec.ofNat 8 (w % 2 ^ nbits / 2 ^ (8 * k))

/-- The three bytes, the longest length (R70), that a table word lays out from its first address. -/
def tableBytes (nbits w : Nat) : List Byte := [tableByte nbits w 0, tableByte nbits w 1, tableByte nbits w 2]

/-- The instruction the decoder reads from a table word, under the default table (log 23). -/
def decodeTableWord (nbits w : Nat) : Option Instr :=
  match decode Config.default.table (tableBytes nbits w) with
  | .ok (i, _) => some i
  | .error _ => none

end Sys2Proof
end

