-- ==== Sys2Proof/Machine/State.lean ====
section
/-! DEFINITION. The state of the core (10_state.md), as plain data; the fault and the refusal a step can end in; and
construction, the core's only reset. -/

namespace Sys2Proof.Machine

/-- The 8-bit registers (R21). `z` here is the latch; the flag Z is `Flag.z`. -/
inductive Reg8 where
  | b | c | d | e | h | l | a | f | w | z
  deriving DecidableEq, Repr

/-- The 16-bit pairs (R23). -/
inductive Pair where
  | bc | de | hl | wz
  deriving DecidableEq, Repr

/-- The five flags packed into F (R25): S, Z, AC, P, CY. -/
inductive Flag where
  | s | z | ac | p | cy
  deriving DecidableEq, Repr

/-- The fault latch's content (R35, R201): the opcode without an entry and the address it was read from. -/
structure UnimplementedOpcode where
  opcode : Byte
  addr   : Word
  deriving DecidableEq, Repr

/-- The in-flight instruction (R33): the table entry's length, cycles and routine, latched with the opcode, and the
number of its ticks completed (R34). -/
structure InFlight where
  opcode  : Byte
  length  : Nat
  cycles  : Nat
  execute : Routine
  elapsed : Nat
  deriving DecidableEq, Repr

/-- Memory as cells that differ from the blank byte, addresses strictly rising (`Memory.wf`). -/
abbrev Memory := List Host.Cell

/-- What an unlisted address reads as: 0x00, the default of `IMAGE` for a cell the loader does not fill (D8).
DESIGN CHOICE, log 4. -/
def Memory.blank : Byte := 0x00

/-- The cells from address lo on are in canonical form: rising, inside the 65 536 cells of R50, none blank. -/
def Memory.wfFrom : Nat → Memory → Bool
  | _, [] => true
  | lo, (a, v) :: m => decide (lo ≤ a) && decide (a < 65536) && decide (v ≠ Memory.blank) && Memory.wfFrom (a + 1) m

/-- The canonical form of memory, in which equal memories are equal lists. -/
def Memory.wf (m : Memory) : Bool := Memory.wfFrom 0 m

/-- The complete state record of R38, with the configuration of R6 beside it (DESIGN CHOICE, log 1: the spec calls the
configuration a parameter of the step; no step writes the field). -/
structure State where
  config   : Config
  b        : Byte
  c        : Byte
  d        : Byte
  e        : Byte
  h        : Byte
  l        : Byte
  a        : Byte
  f        : Byte
  w        : Byte
  z        : Byte
  sp       : Word
  pc       : Word
  mem      : Memory
  inflight : Option InFlight
  halted   : Option UnimplementedOpcode
  deriving DecidableEq, Repr

/-- The only fault of the core (R9, R200, R204). -/
inductive Fault where
  /-- Raised by a fetch tick whose opcode has no entry (R200, R202), and by every later tick of the Halted core (R103).
  It carries the opcode and its address, and the state at the point of failure: the outcome
  `Fault(UnimplementedOpcode(opcode, addr), s')` of R9. Safe: the core itself stops there (R203). -/
  | unimplementedOpcode (info : UnimplementedOpcode) (point : State)
  deriving DecidableEq, Repr

/-- Why the model gives no meaning. -/
inductive Refusal where
  /-- An instruction whose arm has no meaning yet, by its mnemonic in the opcode table. Every arm has its meaning, so
  nothing raises it (R9: a tick has no third outcome). Safe. -/
  | notModelled (mnemonic : String)
  deriving DecidableEq, Repr

/-- Construction (R39, R230, R233): memory is the image, registers are the presets, W and Z are zero, the core is Idle
and not Halted. -/
def State.construct (config : Config) (image : Memory) (r : InitRegs) : State :=
  { config := config
    b := r.b, c := r.c, d := r.d, e := r.e, h := r.h, l := r.l, a := r.a, f := r.f
    w := 0x00, z := 0x00
    sp := r.sp, pc := r.pc
    mem := image
    inflight := none
    halted := none }

/-- The machine right after reset (R39): construction with every parameter at its default and no byte of memory
listed. The register values are the spec's own defaults (D7; DESIGN CHOICE, log 3). -/
def State.reset : State := State.construct Config.default [] InitRegs.default

end Sys2Proof.Machine
end

