-- ==== Sys2Proof/Machine/Ops.lean ====
section
/-! DEFINITION. The named operations over registers and memory, and the one way the core raises its exception. -/

namespace Sys2Proof.Machine

/-- What a tick or an execute routine ends in. -/
abbrev Result := Host.Outcome State Fault Refusal

/-! ## Memory -/

/-- The byte at an address. -/
def Memory.read : Memory → Nat → Byte
  | [], _ => Memory.blank
  | (k, v) :: m, a => if k = a then v else Memory.read m a

/-- A cell in front of the cells after it, left out when it holds the blank byte. -/
def Memory.cons (a : Nat) (v : Byte) (m : Memory) : Memory := if v = Memory.blank then m else (a, v) :: m

/-- Writes one byte and keeps the canonical form. -/
def Memory.write : Memory → Nat → Byte → Memory
  | [], a, v => Memory.cons a v []
  | (k, x) :: m, a, v =>
    if a < k then Memory.cons a v ((k, x) :: m)
    else if a = k then Memory.cons a v m
    else (k, x) :: Memory.write m a v

/-- `MemRead(addr, 1)` (R51). -/
def memRead1 (addr : Word) (s : State) : Byte := s.mem.read addr.toNat

/-- `MemWrite(addr, 1, v)` (R52). -/
def memWrite1 (addr : Word) (v : Byte) (s : State) : State := { s with mem := s.mem.write addr.toNat v }

/-- `MemRead(addr, 2)` (R53): little-endian, the second address modulo 2^16 (R55). DESIGN CHOICE of the spec (D5),
log 10. -/
def memRead2 (addr : Word) (s : State) : Word := joinBytes (memRead1 (addr + 1) s) (memRead1 addr s)

/-- `MemWrite(addr, 2, v)` (R54). -/
def memWrite2 (addr v : Word) (s : State) : State := memWrite1 (addr + 1) (hiByte v) (memWrite1 addr (loByte v) s)

/-- Writes bytes at consecutive addresses modulo 2^16: the loader's copy (R230), which `State.withFetchWord` uses. -/
def memWriteBytes (addr : Word) (bytes : List Byte) (s : State) : State :=
  match bytes with
  | [] => s
  | v :: rest => memWriteBytes (addr + 1) rest (memWrite1 addr v s)

/-! ## Registers -/

/-- `x[r]` (R8, R21). -/
def State.reg (r : Reg8) (s : State) : Byte :=
  match r with
  | .b => s.b
  | .c => s.c
  | .d => s.d
  | .e => s.e
  | .h => s.h
  | .l => s.l
  | .a => s.a
  | .f => s.f
  | .w => s.w
  | .z => s.z

/-- `x[r] <- v` (R8, R21). No register is hardwired. -/
def State.setReg (r : Reg8) (v : Byte) (s : State) : State :=
  match r with
  | .b => { s with b := v }
  | .c => { s with c := v }
  | .d => { s with d := v }
  | .e => { s with e := v }
  | .h => { s with h := v }
  | .l => { s with l := v }
  | .a => { s with a := v }
  | .f => { s with f := v }
  | .w => { s with w := v }
  | .z => { s with z := v }

/-- The high byte's register of a pair (R23). PRESUMED by the spec for BC, DE, HL (D4), log 6. -/
def Pair.high : Pair → Reg8
  | .bc => .b
  | .de => .d
  | .hl => .h
  | .wz => .w

/-- The low byte's register of a pair (R23). PRESUMED by the spec for BC, DE, HL (D4), log 6. -/
def Pair.low : Pair → Reg8
  | .bc => .c
  | .de => .e
  | .hl => .l
  | .wz => .z

/-- `x[rp]` (R8, R23, R24): the two current bytes of the pair; a pair has no storage of its own. -/
def State.pair (p : Pair) (s : State) : Word := joinBytes (s.reg p.high) (s.reg p.low)

/-- `x[rp] <- v` (R8, R24): both bytes in one step. -/
def State.setPair (p : Pair) (v : Word) (s : State) : State := (s.setReg p.high (hiByte v)).setReg p.low (loByte v)

/-- `pc <- pc +16 1` (R31). -/
def State.advancePc (s : State) : State := { s with pc := s.pc + 1 }

/-! ## The in-flight latch -/

/-- Latches the fetched entry with its counter at 1 (R34, R102, R104). -/
def State.latch (op : Byte) (e : Entry) (s : State) : State :=
  { s with
    inflight := some ({ opcode := op, length := e.length, cycles := e.cycles, execute := e.execute, elapsed := 1 } : InFlight) }

/-- `inflight.elapsed <- n` (R102), for the instruction `l` in flight. -/
def State.setElapsed (l : InFlight) (n : Nat) (s : State) : State := { s with inflight := some { l with elapsed := n } }

/-- Discards the latched instruction: back to Idle (R105). -/
def State.discard (s : State) : State := { s with inflight := none }

/-! ## The one exception

TAKING IT is all there is: the core has no trap mechanism (R206), so nothing is saved, no mode changes and there is no
vector; and there is no return from it (R207): only a new construction, `State.construct`, runs again. -/

/-- `raise UnimplementedOpcode(op, addr)` (R8, R102, R202): the fault latch is set and the tick ends in the fault, with
the state at the point of failure. PC has already moved past the opcode byte. -/
def raiseUnimplementedOpcode (op : Byte) (addr : Word) (s : State) : Result :=
  .fault (.unimplementedOpcode { opcode := op, addr := addr }
    { s with halted := some { opcode := op, addr := addr } })

end Sys2Proof.Machine
end

