-- ==== Sys2Proof/Machine/Operands.lean ====
section
/-! DEFINITION. Every operand form: the staging of operand bytes into Z and W on the fetch tick, the operands an execute
routine takes from those latches, and the effective address of a register-indirect store. -/

namespace Sys2Proof.Machine

/-- Reads the byte at PC into Z and advances PC (R104). -/
def State.stageZ (s : State) : State := { s with z := memRead1 s.pc s }.advancePc

/-- Reads the byte at PC into W and advances PC (R104). -/
def State.stageW (s : State) : State := { s with w := memRead1 s.pc s }.advancePc

/-- Stages the operand bytes of an instruction of the given length (R70, R102): Z if it is 2 or more, W if it is 3. -/
def State.stageOperands (length : Nat) (s : State) : State :=
  let s1 := if 2 ≤ length then s.stageZ else s
  if length = 3 then s1.stageW else s1

/-- The instruction an execute tick runs: the latched routine with the operands the latches Z and W hold then (R72,
R105). Nothing writes Z or W between the two ticks, so these are the bytes of the instruction (DEDUCED, log 9). -/
def State.latchedInstr (l : InFlight) (s : State) : Instr := l.execute.instr s.z s.w

/-- The effective address a pair holds (R142; R6 glossary "Effective address"). Every value is a valid address (R55). -/
def State.effectiveAddress (p : Pair) (s : State) : Word := s.pair p

end Sys2Proof.Machine
end

