-- ==== Sys2Proof/Machine/Flags.lean ====
section
/-! DEFINITION. The flags byte F (10_state.md R25 to R29) and the flag-computation unit (41_flag_unit.md), whole. -/

namespace Sys2Proof.Machine

/-- The operation kinds of `auxiliaryCarry` (R130). -/
inductive AuxKind where
  | inc
  | dec
  deriving DecidableEq, Repr

/-- The operation kinds of `carry` (R130). -/
inductive CarryKind where
  | add
  | shl
  deriving DecidableEq, Repr

/-! ## The flags byte -/

/-- `pos(f)` (R25, R26). -/
def Flag.pos : Flag → Nat
  | .s => 7
  | .z => 6
  | .ac => 4
  | .p => 2
  | .cy => 0

/-- `flag(f)` (R26). -/
def State.flag (f : Flag) (s : State) : Bool := s.f.getLsbD f.pos

/-- `x[F]` with flag f set or cleared, all other bits as they were (R27). -/
def withFlag (f : Flag) (b : Bool) (v : Byte) : Byte :=
  if b then v ||| (1#8 <<< f.pos) else v &&& ~~~(1#8 <<< f.pos)

/-- `setflag(f, b)` (R27). -/
def State.setFlag (f : Flag) (b : Bool) (s : State) : State := s.setReg .f (withFlag f b s.f)

/-! ## The flag functions -/

/-- The number of 1 bits (R8). -/
def popcount (v : Byte) : Nat := ([0, 1, 2, 3, 4, 5, 6, 7].filter (fun k => v.getLsbD k)).length

/-- R121. -/
def isSigned (v : Byte) : Bool := (v &&& 0x80) != 0

/-- R122. -/
def isZero (v : Byte) : Bool := v == 0

/-- R123. -/
def hasEvenParity (v : Byte) : Bool := popcount v % 2 == 0

/-- `auxiliaryCarry(v, op)` of the already-updated value v, under either rule (R124, R125; C6). The default rule is the
reference's (D14), log 13. -/
def auxiliaryCarry (rule : AuxCarryRule) (v : Byte) (k : AuxKind) : Bool :=
  match rule, k with
  | .reference, .inc => (v &&& 0x0F) == 0x0F
  | .reference, .dec => (v &&& 0x0F) == 0x00
  | .conventional, .inc => (v &&& 0x0F) == 0x00
  | .conventional, .dec => (v &&& 0x0F) != 0x0F

/-- `carry(v, op)` (R126, R127): of the raw sum for an addition, of the operand before the shift for a left shift. -/
def carry (v : Nat) (k : CarryKind) : Bool :=
  match k with
  | .add => decide (v > 0xFF)
  | .shl => (v &&& 0x80) != 0

/-- The carry of the pair addition, of the unreduced sum, under either rule (R128; C7). The default rule is the
reference's (D15), log 13. -/
def pairAddCarry (rule : PairAddCarryRule) (sum : Nat) : Bool :=
  match rule with
  | .reference => carry sum .add
  | .conventional => decide (sum > 0xFFFF)

/-! ## The common flag update -/

/-- `setSZP(v)` (R129). -/
def State.setSZP (v : Byte) (s : State) : State :=
  ((s.setFlag .s (isSigned v)).setFlag .z (isZero v)).setFlag .p (hasEvenParity v)

end Sys2Proof.Machine
end

