-- ==== Sys2Proof/Machine/Arithmetic.lean ====
section
/-! DEFINITION. The arithmetic instructions of 43_arithmetic.md. Results wrap (R159); flags not listed as written keep
their values. Which flags stay unwritten is the spec's D16, log 12. -/

namespace Sys2Proof.Machine

/-- INX B (R160): no flag. -/
def execInxB (s : State) : Result := .next (s.setPair .bc (s.pair .bc + 1))

/-- Writes the result r of an 8-bit increment or decrement of B and its flags S, Z, P and AC, not CY (R161, R162). -/
def writeCountB (k : AuxKind) (r : Byte) (s : State) : State :=
  ((s.setReg .b r).setSZP r).setFlag .ac (auxiliaryCarry s.config.auxCarry r k)

/-- INR B (R161). -/
def execInrB (s : State) : Result := .next (writeCountB .inc (s.reg .b + 1) s)

/-- DCR B (R162). -/
def execDcrB (s : State) : Result := .next (writeCountB .dec (s.reg .b - 1) s)

/-- The unreduced sum of the pair addition (R163), at most 0x1FFFE. -/
def dadSum (s : State) : Nat := (s.pair .hl).toNat + (s.pair .bc).toNat

/-- DAD B (R163): HL takes the sum modulo 2^16; CY, and only CY, is written from the unreduced sum. -/
def execDadB (s : State) : Result :=
  .next ((s.setPair .hl (BitVec.ofNat 16 (dadSum s))).setFlag .cy (pairAddCarry s.config.pairAddCarry (dadSum s)))

end Sys2Proof.Machine
end

