-- ==== Sys2Proof/Machine/Control.lean ====
section
/-! DEFINITION. 45_nop_and_control.md. The table has no control-transfer entry (R191). -/

namespace Sys2Proof.Machine

/-- NOP (R190): nothing. -/
def execNop (s : State) : Result := .next s

end Sys2Proof.Machine
end

