-- ==== Sys2Proof/Machine/DataTransfer.lean ====
section
/-! DEFINITION. The data-transfer instructions of 42_data_transfer.md. None writes a flag; none touches PC. -/

namespace Sys2Proof.Machine

/-- LXI B,d16 (R140): `x[BC] <- x[WZ]`, the immediate d16 having been staged in W and Z. -/
def execLxiB (d16 : Word) (s : State) : Result := .next (s.setPair .bc d16)

/-- MVI B,d8 (R141): `x[B] <- x[Z]`, the immediate d8 having been staged in Z. -/
def execMviB (d8 : Byte) (s : State) : Result := .next (s.setReg .b d8)

/-- STAX B (R142): `MemWrite(x[BC], 1, x[A])`. -/
def execStaxB (s : State) : Result := .next (memWrite1 (s.effectiveAddress .bc) (s.reg .a) s)

end Sys2Proof.Machine
end

