-- ==== Sys2Proof/Machine/Rotate.lean ====
section
/-! DEFINITION. The rotate of 44_rotate.md. -/

namespace Sys2Proof.Machine

/-- `((old << 1) | (old >> 7)) & 0xFF` (R180). -/
def rotateLeft1 (v : Byte) : Byte := (v <<< 1) ||| (v >>> 7)

/-- RLC (R180): A rotates left, bit 7 going to bit 0 and to CY; no other flag is written. The circular reading is the
spec's (N42), log 21. -/
def execRlc (s : State) : Result := .next ((s.setReg .a (rotateLeft1 (s.reg .a))).setFlag .cy (carry (s.reg .a).toNat .shl))

end Sys2Proof.Machine
end

