-- ==== Sys2Proof/Machine/Tick.lean ====
section
/-! DEFINITION. The state machine of 40_tick_state_machine.md: one tick, a number of ticks, an instruction's worth of
ticks, and the placing of an instruction where the next tick runs it. -/

namespace Sys2Proof.Machine

/-- The fetch tick (R102, R104): reads the opcode at PC and advances PC; without an entry it faults before any operand
byte is read (C2; D11, log 16); with one it stages the operands and latches the instruction. It executes nothing. -/
def fetchTick (s : State) : Result :=
  let op := memRead1 s.pc s
  match lookup s.config.table op with
  | none => raiseUnimplementedOpcode op s.pc s.advancePc
  | some e => .next ((s.advancePc.stageOperands e.length).latch op e)

/-- Runs an execute routine's outcome back to Idle (R105). -/
def discardLatch (r : Result) : Result :=
  match r with
  | .next s => .next s.discard
  | .fault f => .fault f
  | .refused n => .refused n

/-- A counting tick with the instruction `l` in flight (R102, R105): the counter goes up by one; the tick that makes it
equal to the cycle count executes (D9, log 17). -/
def countingTick (l : InFlight) (s : State) : Result :=
  if l.elapsed + 1 = l.cycles then discardLatch (exec (s.latchedInstr l) s)
  else .next (s.setElapsed l (l.elapsed + 1))

/-- One tick (R102, R113). A Halted core reports its fault again and changes nothing (R103, log 8). -/
def tick (s : State) : Result :=
  match s.halted with
  | some info => .fault (.unimplementedOpcode info s)
  | none =>
    match s.inflight with
    | none => fetchTick s
    | some l => countingTick l s

/-- `k` ticks, stopping at the first that gives no next state (R111). -/
def ticks : Nat → State → Result
  | 0, s => .next s
  | k + 1, s =>
    match tick s with
    | .next t => ticks k t
    | .fault f => .fault f
    | .refused n => .refused n

/-- The ticks the instruction in flight still takes (R107); none when Idle. -/
def State.ticksLeft (s : State) : Nat :=
  match s.inflight with
  | none => 0
  | some l => l.cycles - l.elapsed

/-- An instruction step (R214): a tick, then ticks until the core is Idle again. -/
def instructionStep (s : State) : Result :=
  match tick s with
  | .next t => ticks t.ticksLeft t
  | .fault f => .fault f
  | .refused n => .refused n

/-- `k` instruction steps. -/
def instructionSteps : Nat → State → Result
  | 0, s => .next s
  | k + 1, s =>
    match instructionStep s with
    | .next t => instructionSteps k t
    | .fault f => .fault f
    | .refused n => .refused n

/-- The state in which the instruction in flight is one tick short of its execute tick: every tick it waits out has
passed. Counting ticks change only the counter (R109), so this is the state they lead to. -/
def State.lastTick (s : State) : State :=
  match s.inflight with
  | none => s
  | some l => s.setElapsed l (l.cycles - 1)

/-- The state with `bytes` stored at PC and the instruction they hold fetched and waited out, so that the very next
tick runs it; bytes without an entry leave the core Idle at them, so that the very next tick raises their fault.
DESIGN CHOICE, log 7. -/
def State.presentBytes (bytes : List Byte) (s : State) : State :=
  let loaded := memWriteBytes s.pc bytes { s with inflight := none, halted := none }
  match fetchTick loaded with
  | .next t => t.lastTick
  | .fault _ => loaded
  | .refused _ => loaded

end Sys2Proof.Machine
end

