-- ==== Sys2Proof/Machine/Step.lean ====
section
/-! DEFINITION. One step of the core is one clock tick (40_tick_state_machine.md R101, R102), and the placing of a table
word for the host's questions. -/

namespace Sys2Proof.Machine

/-- One step: one tick (R101: "the externally visible unit of progress"). -/
def step (s : State) : Host.Outcome State Fault Refusal := tick s

/-- The instruction of a table word stored at PC, and the core at its last tick, so that the very next step runs it
(log 7). -/
def State.withFetchWord (s : State) (nbits w : Nat) : State := s.presentBytes (tableBytes nbits w)

end Sys2Proof.Machine
end

