-- ==== Sys2Proof/Machine/Inspect.lean ====
section
/-! DEFINITION. The inspection interface (70_reset_and_hazards.md R236): what the host reads between ticks. The in-flight
latch and its counter are not readable (R38, log 20). -/

namespace Sys2Proof.Machine

/-- What the host names to inspect (R235, R236). -/
inductive Inspection where
  | reg (r : Reg8)
  | flag (f : Flag)
  | pair (p : Pair)
  | sp
  | pc
  | byteAt (addr : Word)
  deriving DecidableEq, Repr

/-- The current value, a byte or a flag zero-extended to 16 bits (R8 zext_16). It is a function of the state, so
reading changes nothing (R236). -/
def inspect (q : Inspection) (s : State) : Word :=
  match q with
  | .reg r => (s.reg r).zeroExtend 16
  | .flag f => if s.flag f then 1 else 0
  | .pair p => s.pair p
  | .sp => s.sp
  | .pc => s.pc
  | .byteAt addr => (memRead1 addr s).zeroExtend 16

end Sys2Proof.Machine
end

