-- ==== Sys2Proof/Safety.lean ====
section
/-! DEFINITION. The terms statements use: the between-ticks states of the state machine, what a fetch tick leads to, the
invariant of the core, what a safe run is, and what the table's instructions may write. -/

namespace Sys2Proof.Machine

/-! ## The between-ticks states (R100) -/

/-- Idle: nothing in flight and not halted. An instruction boundary. -/
abbrev State.Idle (s : State) : Prop := s.halted = none ∧ s.inflight = none

/-- Counting, with the instruction `l` in flight. -/
abbrev State.Counting (l : InFlight) (s : State) : Prop := s.halted = none ∧ s.inflight = some l

/-- Halted, with the fault `info` latched. -/
abbrev State.Halted (info : UnimplementedOpcode) (s : State) : Prop := s.halted = some info ∧ s.inflight = none

/-- The entry of the opcode at PC, if it has one (R80, R104). -/
def State.nextEntry (s : State) : Option Entry := lookup s.config.table (memRead1 s.pc s)

/-- The `n` bytes from PC on, addresses modulo 2^16 (R55, R70). -/
def State.bytesAtPc (s : State) (n : Nat) : List Byte :=
  (List.range n).map (fun k => memRead1 (s.pc + BitVec.ofNat 16 k) s)

/-- What R104 says the fetch tick leaves, field by field, for the entry `e` of the opcode at PC. -/
def State.afterFetch (e : Entry) (s : State) : State :=
  { s with
    pc := s.pc + BitVec.ofNat 16 e.length
    z := if 2 ≤ e.length then memRead1 (s.pc + 1) s else s.z
    w := if e.length = 3 then memRead1 (s.pc + 2) s else s.w
    inflight := some
      { opcode := memRead1 s.pc s, length := e.length, cycles := e.cycles, execute := e.execute, elapsed := 1 } }

/-! ## The invariant -/

/-- What holds between ticks in every run. -/
structure State.Inv (s : State) : Prop where
  /-- Memory is in canonical form (R50). -/
  memCanonical : s.mem.wf = true
  /-- Counting (R100): not halted; the latch is the table's entry (R33) with `1 ≤ elapsed < cycles`; PC is the
  instruction's address plus its length (R32) and Z and W are its operand bytes (R36, R109). -/
  latched : ∀ l, s.inflight = some l →
    s.halted = none ∧
    lookup s.config.table l.opcode = some { length := l.length, cycles := l.cycles, execute := l.execute } ∧
    1 ≤ l.elapsed ∧ l.elapsed < l.cycles ∧
    memRead1 (s.pc - BitVec.ofNat 16 l.length) s = l.opcode ∧
    (2 ≤ l.length → memRead1 (s.pc - BitVec.ofNat 16 l.length + 1) s = s.z) ∧
    (l.length = 3 → memRead1 (s.pc - BitVec.ofNat 16 l.length + 2) s = s.w)
  /-- Halted (R100, R202): nothing in flight; the latched opcode has no entry, stands at the latched address, and PC is
  one past it. -/
  faulted : ∀ info, s.halted = some info →
    s.inflight = none ∧
    lookup s.config.table info.opcode = none ∧
    memRead1 info.addr s = info.opcode ∧
    s.pc = info.addr + 1

/-! ## Safe runs (R203) -/

/-- "no tick returned Fault" for `k` ticks: the premise R203 asks of a claim that a program runs correctly. -/
def SafeFor (k : Nat) (s : State) : Prop := ∃ t, ticks k s = .next t

/-- The declared cycle counts of `k` instructions in a row from an Idle state, summed (R107). -/
def cycleSum : Nat → State → Nat
  | 0, _ => 0
  | k + 1, s =>
    match s.nextEntry, instructionStep s with
    | some e, .next t => e.cycles + cycleSum k t
    | _, _ => 0

/-! ## What an instruction may write (R37) -/

/-- The "writes" column of R37: registers. F is not listed here: its bits are `Instr.flagsWritten`. -/
def regsWritten : Instr → List Reg8
  | .nop => []
  | .lxiB _ => [.b, .c]
  | .staxB => []
  | .inxB => [.b, .c]
  | .inrB => [.b]
  | .dcrB => [.b]
  | .mviB _ => [.b]
  | .rlc => [.a]
  | .dadB => [.h, .l]

/-- The "writes" column of R37: flags. -/
def flagsWritten : Instr → List Flag
  | .nop => []
  | .lxiB _ => []
  | .staxB => []
  | .inxB => []
  | .inrB => [.s, .z, .ac, .p]
  | .dcrB => [.s, .z, .ac, .p]
  | .mviB _ => []
  | .rlc => [.cy]
  | .dadB => [.cy]

/-- The "writes" column of R37: memory. The address stored to, by the expression the meaning uses. -/
def storeAddress (i : Instr) (s : State) : Option Word :=
  match i with
  | .staxB => some (s.effectiveAddress .bc)
  | .nop => none
  | .lxiB _ => none
  | .inxB => none
  | .inrB => none
  | .dcrB => none
  | .mviB _ => none
  | .rlc => none
  | .dadB => none

/-! ## What no instruction reads or writes (R22, R29, R30, R37) -/

/-- The state with D, E, SP and the unused bits 5, 3 and 1 of F blanked: R37 says no row accesses them. -/
def State.eraseUnaccessed (s : State) : State := { s with d := 0, e := 0, sp := 0, f := s.f &&& 0xD5 }

end Sys2Proof.Machine
end

