-- ==== Sys2Proof/Certificates/Slice0/Obligations.lean ====
section
/-! DEFINITION. The statements for the provers. Each docstring names the rules of spec/ it formalises, and says where it
rests on a choice the spec marks as its own (D<n>, or a passage from general knowledge) or on a choice of the model
(log <n>). -/

open Sys2Proof Sys2Proof.Machine

/-! ## Encoding and the table -/

/-- Bytes written out bit by bit from the encodings of 30_encoding.md §2 and opcode_table.json decode to the instruction
they stand for; an opcode outside the table is rejected by name. The opcode values but 0x00 and 0x01 are the spec's D2
(log 5). -/
def Obligations.SpecWordsDecode : Prop :=
  decode .tRef [0b00000000] = .ok (.nop, []) ∧
  decode .tRef [0b00000001, 0b11111111, 0b10101010] = .ok (.lxiB 0xAAFF, []) ∧
  decode .tRef [0b00000010] = .ok (.staxB, []) ∧
  decode .tRef [0b00000011] = .ok (.inxB, []) ∧
  decode .tRef [0b00000100] = .ok (.inrB, []) ∧
  decode .tRef [0b00000101] = .ok (.dcrB, []) ∧
  decode .tRef [0b00000110, 0b01011010] = .ok (.mviB 0x5A, []) ∧
  decode .tRef [0b00000111] = .ok (.rlc, []) ∧
  decode .tRef [0b00001001] = .ok (.dadB, []) ∧
  decode .tRef [0b11111111] = .error (.unimplementedOpcode 0xFF) ∧
  decode .tDoc [0b00000100] = .error (.unimplementedOpcode 0x04)

/-- The two tables, opcode by opcode: length, cycles and routine (30_encoding.md §2, R84; R243). Rests on D1, D2 and D3
(log 2, log 5). -/
def Obligations.TableEntriesAreTheSpecs : Prop :=
  (∀ op : Byte, lookup .tRef op =
    if op = 0x00 then some { length := 1, cycles := 4, execute := .nop }
    else if op = 0x01 then some { length := 3, cycles := 10, execute := .lxiB }
    else if op = 0x02 then some { length := 1, cycles := 7, execute := .staxB }
    else if op = 0x03 then some { length := 1, cycles := 5, execute := .inxB }
    else if op = 0x04 then some { length := 1, cycles := 5, execute := .inrB }
    else if op = 0x05 then some { length := 1, cycles := 5, execute := .dcrB }
    else if op = 0x06 then some { length := 2, cycles := 7, execute := .mviB }
    else if op = 0x07 then some { length := 1, cycles := 4, execute := .rlc }
    else if op = 0x09 then some { length := 1, cycles := 10, execute := .dadB }
    else none) ∧
  (∀ op : Byte, lookup .tDoc op =
    if op = 0x00 then some { length := 1, cycles := 4, execute := .nop }
    else if op = 0x01 then some { length := 3, cycles := 10, execute := .lxiB }
    else if op = 0x02 then some { length := 1, cycles := 7, execute := .staxB }
    else if op = 0x03 then some { length := 1, cycles := 5, execute := .inxB }
    else if op = 0x07 then some { length := 1, cycles := 4, execute := .rlc }
    else none)

/-- Which opcodes are illegal under each table, how many, and that each raises UnimplementedOpcode on its fetch tick
(30_encoding.md R85). Rests on the tables, D1 and D2 (log 2, log 5), and on the address the fault records, D12 (log 16). -/
def Obligations.IllegalOpcodesFaultOnFetch : Prop :=
  (∀ op : Byte, lookup .tRef op = none ↔ op = 0x08 ∨ 0x0A ≤ op.toNat) ∧
  (∀ op : Byte, lookup .tDoc op = none ↔ op = 0x04 ∨ op = 0x05 ∨ op = 0x06 ∨ 0x08 ≤ op.toNat) ∧
  ((List.range 256).filter (fun k => (lookup .tRef (BitVec.ofNat 8 k)).isNone)).length = 247 ∧
  ((List.range 256).filter (fun k => (lookup .tDoc (BitVec.ofNat 8 k)).isNone)).length = 251 ∧
  (∀ s : State, s.Idle → lookup s.config.table (memRead1 s.pc s) = none →
    ∃ s', step s = .fault (.unimplementedOpcode { opcode := memRead1 s.pc s, addr := s.pc } s'))

/-- Decoding the bytes of an instruction the table admits gives the instruction back, with every operand at every value
and whatever bytes follow (30_encoding.md §1, §2). -/
def Obligations.DecodeOfEncode : Prop :=
  ∀ (t : InstrTable) (i : Instr) (rest : List Byte),
    i.wellFormed (rowsOf t) = true → decode t (encode i ++ rest) = .ok (i, rest)

/-- What the decoder accepts is an admitted instruction's own bytes and what follows them: no byte is dropped and no
second spelling exists (30_encoding.md R71, R73). -/
def Obligations.EncodeOfDecode : Prop :=
  ∀ (t : InstrTable) (bytes : List Byte) (i : Instr) (rest : List Byte),
    decode t bytes = .ok (i, rest) → bytes = encode i ++ rest ∧ i.wellFormed (rowsOf t) = true

/-- The decoder rejects by name, and for two reasons only: the first byte has no entry (30_encoding.md R81, R82), or the
bytes end before the instruction does (the model's own reason, for byte lists: log 23). -/
def Obligations.DecodeRejectsByName : Prop :=
  ∀ (t : InstrTable) (bytes : List Byte),
    (∀ op, decode t bytes = .error (.unimplementedOpcode op) ↔ bytes.head? = some op ∧ lookup t op = none) ∧
    ((∃ n m, decode t bytes = .error (.truncated n m)) ↔
      bytes = [] ∨ ∃ op rest e, bytes = op :: rest ∧ lookup t op = some e ∧ bytes.length < e.length)

/-- Both tables pass the check of 30_encoding.md R83, and every entry a lookup finds keeps its bounds. The bound on cycles
is the spec's D10 (log 18). -/
def Obligations.TablesAreWellFormed : Prop :=
  (∀ t : InstrTable, tableWellFormed (rowsOf t) = true) ∧
  (∀ (t : InstrTable) (op : Byte) (e : Entry), lookup t op = some e → 1 ≤ e.length ∧ e.length ≤ 3 ∧ 2 ≤ e.cycles)

/-- Every execute routine answers a next state, from every state, and moves neither PC nor the latches nor the state
machine's own state (40_tick_state_machine.md §3, "they must not move PC except for explicit control-transfer
opcodes", of which the tables have none; 30_encoding.md §2). -/
def Obligations.ExecuteRoutinesNeverMovePc : Prop :=
  ∀ (i : Instr) (s : State), ∃ t, exec i s = .next t ∧
    t.pc = s.pc ∧ t.w = s.w ∧ t.z = s.z ∧ t.inflight = s.inflight ∧ t.halted = s.halted ∧ t.config = s.config

/-! ## Registers and flags -/

/-- Pair consistency (10_state.md R24): a pair reads as its two bytes combined, a pair write sets both and nothing else,
a byte write changes that byte and nothing else. -/
def Obligations.PairAndByteRegistersAgree : Prop :=
  (∀ (p : Pair) (s : State), (s.pair p).toNat = 256 * (s.reg p.high).toNat + (s.reg p.low).toNat) ∧
  (∀ (p : Pair) (v : Word) (s : State),
    ((s.setPair p v).reg p.high).toNat = v.toNat / 256 ∧
    ((s.setPair p v).reg p.low).toNat = v.toNat % 256 ∧
    (s.setPair p v).pair p = v ∧
    (∀ r, r ≠ p.high → r ≠ p.low → (s.setPair p v).reg r = s.reg r) ∧
    (s.setPair p v).sp = s.sp ∧ (s.setPair p v).pc = s.pc ∧ (s.setPair p v).mem = s.mem ∧
    (s.setPair p v).inflight = s.inflight ∧ (s.setPair p v).halted = s.halted ∧
    (s.setPair p v).config = s.config) ∧
  (∀ (r : Reg8) (v : Byte) (s : State),
    (s.setReg r v).reg r = v ∧
    (∀ q, q ≠ r → (s.setReg r v).reg q = s.reg q) ∧
    (s.setReg r v).sp = s.sp ∧ (s.setReg r v).pc = s.pc ∧ (s.setReg r v).mem = s.mem ∧
    (s.setReg r v).inflight = s.inflight ∧ (s.setReg r v).halted = s.halted ∧ (s.setReg r v).config = s.config)

/-- The five flags are the bits of F that 10_state.md R26 places, a flag write sets or clears its own bit of F, and no
other bit of F, of all seven, and no other state changes (R28). -/
def Obligations.FlagWritesTouchOneBit : Prop :=
  (∀ s : State, s.flag .s = s.f.getLsbD 7 ∧ s.flag .z = s.f.getLsbD 6 ∧ s.flag .ac = s.f.getLsbD 4 ∧
    s.flag .p = s.f.getLsbD 2 ∧ s.flag .cy = s.f.getLsbD 0) ∧
  (∀ (g : Flag) (x : Bool) (s : State),
    (s.setFlag g x).flag g = x ∧
    (∀ k, k < 8 → k ≠ g.pos → (s.setFlag g x).f.getLsbD k = s.f.getLsbD k) ∧
    s.setFlag g x = { s with f := (s.setFlag g x).f })

/-- setSZP writes S, Z and P from the result and leaves every other bit of F and all other state (41_flag_unit.md
R129). -/
def Obligations.SetSZPWritesThreeFlags : Prop :=
  ∀ (v : Byte) (s : State),
    (s.setSZP v).flag .s = isSigned v ∧
    (s.setSZP v).flag .z = isZero v ∧
    (s.setSZP v).flag .p = hasEvenParity v ∧
    (∀ k, k = 0 ∨ k = 1 ∨ k = 3 ∨ k = 4 ∨ k = 5 → (s.setSZP v).f.getLsbD k = s.f.getLsbD k) ∧
    s.setSZP v = { s with f := (s.setSZP v).f }

/-- The flag functions of a result byte (41_flag_unit.md R121, R122, R123), said of the byte's value and bits. -/
def Obligations.ResultFlagFunctions : Prop :=
  ∀ v : Byte,
    (isSigned v = true ↔ 128 ≤ v.toNat) ∧
    (isZero v = true ↔ v.toNat = 0) ∧
    (hasEvenParity v = true ↔ ((List.range 8).countP (fun k => v.toNat.testBit k)) % 2 = 0)

/-- The two auxiliary-carry rules (41_flag_unit.md §2). The reference rule reads the updated value's low nibble; the
conventional rule, stated of the value before the update, is a carry out of bit 3 on an increment and no borrow into bit
3 on a decrement. The conventional rule and the default are the spec's D14 (log 13). -/
def Obligations.AuxiliaryCarryRules : Prop :=
  (∀ v : Byte, (auxiliaryCarry .reference v .inc = true ↔ v.toNat % 16 = 15) ∧
    (auxiliaryCarry .reference v .dec = true ↔ v.toNat % 16 = 0)) ∧
  (∀ x : Byte, (auxiliaryCarry .conventional (x + 1) .inc = true ↔ 15 < x.toNat % 16 + 1) ∧
    (auxiliaryCarry .conventional (x - 1) .dec = true ↔ 1 ≤ x.toNat % 16))

/-- The carry functions of an addition's raw sum and of a left shift's operand (41_flag_unit.md R126, R127); the reference's
pair addition uses the same threshold (R126). -/
def Obligations.AdditionAndShiftCarry : Prop :=
  (∀ v : Nat, carry v .add = true ↔ 0xFF < v) ∧
  (∀ v : Nat, pairAddCarry .reference v = carry v .add) ∧
  (∀ v : Byte, carry v.toNat .shl = true ↔ 128 ≤ v.toNat)

/-- The two pair-addition carry rules (41_flag_unit.md §2): the reference threshold is 0xFF on the unreduced 16-bit sum; the
conventional one is the carry out of bit 15, which is when the reduced sum is below an operand. The conventional rule and
the default are the spec's D15 (log 13). -/
def Obligations.PairAdditionCarryRules : Prop :=
  ∀ x y : Word,
    (pairAddCarry .reference (x.toNat + y.toNat) = true ↔ 0xFF < x.toNat + y.toNat) ∧
    (pairAddCarry .conventional (x.toNat + y.toNat) = true ↔ 0xFFFF < x.toNat + y.toNat) ∧
    (pairAddCarry .conventional (x.toNat + y.toNat) = true ↔ (x + y).toNat < x.toNat)

/-! ## Memory -/

/-- A byte write sets the byte at its address and changes no other cell and no other state (20_memory.md R52). -/
def Obligations.ByteWriteChangesOneCell : Prop :=
  ∀ (s : State) (addr : Word) (v : Byte), s.mem.wf = true →
    memRead1 addr (memWrite1 addr v s) = v ∧
    (∀ q, q ≠ addr → memRead1 q (memWrite1 addr v s) = memRead1 q s) ∧
    memWrite1 addr v s = { s with mem := (memWrite1 addr v s).mem }

/-- The word accessors are little-endian and wrap from 0xFFFF to 0x0000 (20_memory.md §1). The byte order is the spec's D5
(log 10), the wrap its D6 (log 11). -/
def Obligations.WordAccessIsLittleEndian : Prop :=
  (∀ (s : State) (addr : Word),
    (memRead2 addr s).toNat = (memRead1 addr s).toNat + 256 * (memRead1 (addr + 1) s).toNat) ∧
  (∀ (s : State) (addr v : Word), s.mem.wf = true →
    (memRead1 addr (memWrite2 addr v s)).toNat = v.toNat % 256 ∧
    (memRead1 (addr + 1) (memWrite2 addr v s)).toNat = v.toNat / 256 ∧
    memRead2 addr (memWrite2 addr v s) = v ∧
    (∀ q, q ≠ addr → q ≠ addr + 1 → memRead1 q (memWrite2 addr v s) = memRead1 q s) ∧
    memWrite2 addr v s = { s with mem := (memWrite2 addr v s).mem })

/-- After any sequence of writes, a read gives the most recent write to that cell, or the byte that was there before them
all (20_memory.md §3). -/
def Obligations.ReadGivesMostRecentWrite : Prop :=
  ∀ (s : State) (writes : List (Word × Byte)) (q : Word), s.mem.wf = true →
    memRead1 q (writes.foldl (fun t x => memWrite1 x.1 x.2 t) s) =
      match writes.reverse.find? (fun x => x.1 == q) with
      | some x => x.2
      | none => memRead1 q s

/-- Canonical memories that read the same at every one of the 65 536 addresses (20_memory.md §1) are the same data. The
canonical form is the model's own. -/
def Obligations.CanonicalMemoriesAreDetermined : Prop :=
  ∀ m n : Memory, m.wf = true → n.wf = true → (∀ a, a < 65536 → m.read a = n.read a) → m = n

/-! ## The instructions -/

/-- NOP (45_nop_and_control.md R190): its entry, its routine, what four ticks of it leave at any address (so a NOP at
0xFFFF leaves PC = 0x0000), and that memory filled with 0x00 runs as NOPs with no fault, for as long as one likes. -/
def Obligations.NopOnlyAdvancesPc : Prop :=
  (∀ t : InstrTable, lookup t 0x00 = some { length := 1, cycles := 4, execute := .nop }) ∧
  (∀ s : State, exec .nop s = .next s) ∧
  (∀ s : State, s.Idle → memRead1 s.pc s = 0x00 → ticks 4 s = .next { s with pc := s.pc + 1 }) ∧
  (∀ (k : Nat) (s : State), s.Idle → s.mem = [] →
    ticks (4 * k) s = .next { s with pc := s.pc + BitVec.ofNat 16 k })

/-- LXI B,d16 (42_data_transfer.md §R140): its entry; its routine loads B with the high byte and C with the low byte and
changes nothing else, no flag and no byte of memory; and what ten ticks leave, with the operands at the next two
addresses modulo 2^16. The destination is from general knowledge (G10, log 5), and so is B as its high byte (10_state.md
§1, D4, log 6). -/
def Obligations.LxiBLoadsImmediatePair : Prop :=
  (∀ t : InstrTable, lookup t 0x01 = some { length := 3, cycles := 10, execute := .lxiB }) ∧
  (∀ (d16 : Word) (s : State), ∃ t, exec (.lxiB d16) s = .next t ∧
    t.b.toNat = d16.toNat / 256 ∧ t.c.toNat = d16.toNat % 256 ∧
    t = { s with b := t.b, c := t.c } ∧ (∀ q, memRead1 q t = memRead1 q s)) ∧
  (∀ s : State, s.Idle → memRead1 s.pc s = 0x01 →
    ticks 10 s = .next { s with
      b := memRead1 (s.pc + 2) s
      c := memRead1 (s.pc + 1) s
      w := memRead1 (s.pc + 2) s
      z := memRead1 (s.pc + 1) s
      pc := s.pc + 3 })

/-- MVI B,d8 (42_data_transfer.md §R141): its entry, in T_REF only; its routine loads B and changes nothing else; and what
seven ticks leave, W keeping its value. Register, opcode, length and cycles are from general knowledge (log 5). -/
def Obligations.MviBLoadsImmediateByte : Prop :=
  lookup .tRef 0x06 = some { length := 2, cycles := 7, execute := .mviB } ∧
  lookup .tDoc 0x06 = none ∧
  (∀ (d8 : Byte) (s : State), ∃ t, exec (.mviB d8) s = .next t ∧
    t.b = d8 ∧ t = { s with b := t.b } ∧ (∀ q, memRead1 q t = memRead1 q s)) ∧
  (∀ s : State, s.Idle → s.config.table = .tRef → memRead1 s.pc s = 0x06 →
    ticks 7 s = .next { s with
      b := memRead1 (s.pc + 1) s
      z := memRead1 (s.pc + 1) s
      pc := s.pc + 2 })

/-- STAX B (42_data_transfer.md §R142): its entry; its routine stores A at the address the pair BC holds and changes no
other byte and no register or flag; and what seven ticks leave. The opcode value is from general knowledge (log 5), and so
is B as the high byte of the address (10_state.md §1, D4, log 6). -/
def Obligations.StaxBStoresAccumulatorAtBc : Prop :=
  (∀ t : InstrTable, lookup t 0x02 = some { length := 1, cycles := 7, execute := .staxB }) ∧
  (∀ s : State, s.mem.wf = true → ∃ t, exec .staxB s = .next t ∧
    (∀ addr, storeAddress .staxB s = some addr →
      addr.toNat = 256 * s.b.toNat + s.c.toNat ∧
      memRead1 addr t = s.a ∧
      (∀ q, q ≠ addr → memRead1 q t = memRead1 q s)) ∧
    (storeAddress .staxB s).isSome ∧
    t = { s with mem := t.mem } ∧
    (s.Idle → memRead1 s.pc s = 0x02 → ticks 7 s = .next { t with pc := s.pc + 1 }))

/-- INX B (43_arithmetic.md §R160): its entry; its routine adds 1 to BC modulo 2^16, the carry crossing from C into B, and
changes nothing else, no flag; and what five ticks leave. Opcode and cycles are from general knowledge (log 5), and so is B
as the high byte of the pair (10_state.md §1, D4, log 6). -/
def Obligations.InxBIncrementsPair : Prop :=
  (∀ t : InstrTable, lookup t 0x03 = some { length := 1, cycles := 5, execute := .inxB }) ∧
  (∀ s : State, ∃ t, exec .inxB s = .next t ∧
    256 * t.b.toNat + t.c.toNat = (256 * s.b.toNat + s.c.toNat + 1) % 65536 ∧
    t = { s with b := t.b, c := t.c } ∧ (∀ q, memRead1 q t = memRead1 q s) ∧
    (s.Idle → memRead1 s.pc s = 0x03 → ticks 5 s = .next { t with pc := s.pc + 1 }))

/-- INR B (43_arithmetic.md §R161): its entry, in T_REF only; its routine adds 1 to B modulo 2^8 and writes S, Z, P and AC
from the result, AC by the configured rule; CY, the unused bits of F and all else stay; and what five ticks leave. The
flags left alone are the spec's D16 (log 12), the opcode and cycles general knowledge (log 5). -/
def Obligations.InrBIncrementsAndSetsFlags : Prop :=
  lookup .tRef 0x04 = some { length := 1, cycles := 5, execute := .inrB } ∧
  lookup .tDoc 0x04 = none ∧
  (∀ s : State, ∃ t, exec .inrB s = .next t ∧
    t.b.toNat = (s.b.toNat + 1) % 256 ∧
    t.flag .s = isSigned t.b ∧ t.flag .z = isZero t.b ∧ t.flag .p = hasEvenParity t.b ∧
    t.flag .ac = auxiliaryCarry s.config.auxCarry t.b .inc ∧
    (∀ k, k = 0 ∨ k = 1 ∨ k = 3 ∨ k = 5 → t.f.getLsbD k = s.f.getLsbD k) ∧
    t = { s with b := t.b, f := t.f } ∧ (∀ q, memRead1 q t = memRead1 q s) ∧
    (s.Idle → s.config.table = .tRef → memRead1 s.pc s = 0x04 → ticks 5 s = .next { t with pc := s.pc + 1 }))

/-- DCR B (43_arithmetic.md §R162): as INR B, subtracting 1. The flags left alone are the spec's D16 (log 12), the opcode
and cycles general knowledge (log 5). -/
def Obligations.DcrBDecrementsAndSetsFlags : Prop :=
  lookup .tRef 0x05 = some { length := 1, cycles := 5, execute := .dcrB } ∧
  lookup .tDoc 0x05 = none ∧
  (∀ s : State, ∃ t, exec .dcrB s = .next t ∧
    t.b.toNat = (s.b.toNat + 255) % 256 ∧
    t.flag .s = isSigned t.b ∧ t.flag .z = isZero t.b ∧ t.flag .p = hasEvenParity t.b ∧
    t.flag .ac = auxiliaryCarry s.config.auxCarry t.b .dec ∧
    (∀ k, k = 0 ∨ k = 1 ∨ k = 3 ∨ k = 5 → t.f.getLsbD k = s.f.getLsbD k) ∧
    t = { s with b := t.b, f := t.f } ∧ (∀ q, memRead1 q t = memRead1 q s) ∧
    (s.Idle → s.config.table = .tRef → memRead1 s.pc s = 0x05 → ticks 5 s = .next { t with pc := s.pc + 1 }))

/-- DAD B (43_arithmetic.md §R163): its entry, in T_REF only; its routine puts HL + BC modulo 2^16 in HL and the carry of
the unreduced sum, by the configured rule, in CY; every other bit of F and all else stay; and what ten ticks leave. That H
and B are the high bytes of HL and BC is the pair mapping of 10_state.md §1 (R23), from general knowledge (D4, G2, log 6);
pair, opcode and cycles are general knowledge (log 5), the flags left alone D16 (log 12), the rule's default D15 (log 13),
the 16-bit result D24 (log 11). -/
def Obligations.DadBAddsPairs : Prop :=
  lookup .tRef 0x09 = some { length := 1, cycles := 10, execute := .dadB } ∧
  lookup .tDoc 0x09 = none ∧
  (∀ s : State, ∃ t, exec .dadB s = .next t ∧
    256 * t.h.toNat + t.l.toNat =
      ((256 * s.h.toNat + s.l.toNat) + (256 * s.b.toNat + s.c.toNat)) % 65536 ∧
    t.flag .cy = pairAddCarry s.config.pairAddCarry
      ((256 * s.h.toNat + s.l.toNat) + (256 * s.b.toNat + s.c.toNat)) ∧
    (∀ k, 1 ≤ k → k < 8 → t.f.getLsbD k = s.f.getLsbD k) ∧
    t = { s with h := t.h, l := t.l, f := t.f } ∧ (∀ q, memRead1 q t = memRead1 q s) ∧
    (s.Idle → s.config.table = .tRef → memRead1 s.pc s = 0x09 → ticks 10 s = .next { t with pc := s.pc + 1 }))

/-- RLC (44_rotate.md §R180): its entry; bit k of A goes to bit k + 1 and bit 7 to bit 0 and to CY, whatever CY was; every
other bit of F and all else stay; and what four ticks leave. Opcode and cycles are general knowledge (log 5); the circular
reading is the spec's (log 21). -/
def Obligations.RlcRotatesAccumulator : Prop :=
  (∀ t : InstrTable, lookup t 0x07 = some { length := 1, cycles := 4, execute := .rlc }) ∧
  (∀ s : State, ∃ t, exec .rlc s = .next t ∧
    (∀ k, k < 7 → t.a.getLsbD (k + 1) = s.a.getLsbD k) ∧
    t.a.getLsbD 0 = s.a.getLsbD 7 ∧
    t.flag .cy = s.a.getLsbD 7 ∧
    (∀ k, 1 ≤ k → k < 8 → t.f.getLsbD k = s.f.getLsbD k) ∧
    t = { s with a := t.a, f := t.f } ∧ (∀ q, memRead1 q t = memRead1 q s) ∧
    (s.Idle → memRead1 s.pc s = 0x07 → ticks 4 s = .next { t with pc := s.pc + 1 }))

/-- The frame of every instruction, the "writes" column of 10_state.md §5: each register, flag, unused bit of F, special
register and byte of memory outside that column keeps its value. The column's flags are D16 (log 12). -/
def Obligations.ExecWritesOnlyWhatTheTableLists : Prop :=
  ∀ (i : Instr) (s t : State), s.mem.wf = true → exec i s = .next t →
    (∀ r, r ≠ .f → r ∉ regsWritten i → t.reg r = s.reg r) ∧
    (∀ g, g ∉ flagsWritten i → t.flag g = s.flag g) ∧
    (∀ k, k = 1 ∨ k = 3 ∨ k = 5 → t.f.getLsbD k = s.f.getLsbD k) ∧
    t.sp = s.sp ∧ t.pc = s.pc ∧ t.inflight = s.inflight ∧ t.halted = s.halted ∧ t.config = s.config ∧
    (∀ q, storeAddress i s ≠ some q → memRead1 q t = memRead1 q s)

/-! ## The state machine -/

/-- The fetch tick (40_tick_state_machine.md R104): with an entry at PC it moves PC past the instruction, stages its
operand bytes and latches it with its counter at 1, and does nothing else; without one it faults with PC one further and
nothing staged (90_conflicts.md C2). -/
def Obligations.FetchTickStagesAndLatches : Prop :=
  ∀ s : State, s.Idle →
    (∀ e, lookup s.config.table (memRead1 s.pc s) = some e →
      step s = .next { s with
        pc := s.pc + BitVec.ofNat 16 e.length
        z := if 2 ≤ e.length then memRead1 (s.pc + 1) s else s.z
        w := if e.length = 3 then memRead1 (s.pc + 2) s else s.w
        inflight := some
          { opcode := memRead1 s.pc s, length := e.length, cycles := e.cycles, execute := e.execute,
            elapsed := 1 } }) ∧
    (lookup s.config.table (memRead1 s.pc s) = none →
      ∃ info, step s = .fault (.unimplementedOpcode info { s with pc := s.pc + 1, halted := some info }))

/-- A counting tick (40_tick_state_machine.md R105): it adds 1 to the counter and, when that reaches the cycle count, runs
the routine with the latches' operands and goes back to Idle without fetching; otherwise it does nothing more. -/
def Obligations.CountingTickWaitsOrExecutes : Prop :=
  ∀ (s : State) (l : InFlight), s.Counting l →
    (l.elapsed + 1 ≠ l.cycles → step s = .next { s with inflight := some { l with elapsed := l.elapsed + 1 } }) ∧
    (l.elapsed + 1 = l.cycles →
      ∃ t, exec (l.execute.instr s.z s.w) s = .next t ∧ step s = .next { t with inflight := none })

/-- A step runs the decoded instruction: from Idle, when the bytes at PC decode to i, the fetch step stages it and, at
the end of its cycles, the state is what exec of i leaves of the staged state, with the latch discarded
(40_tick_state_machine.md §2, §3). -/
def Obligations.StepsRunTheDecodedInstruction : Prop :=
  ∀ (s : State) (i : Instr) (rest : List Byte), s.Idle →
    decode s.config.table (s.bytesAtPc 3) = .ok (i, rest) →
    i.wellFormed (rowsOf s.config.table) = true ∧
    ∃ e t, s.nextEntry = some e ∧ e.execute = i.routine ∧ e.length = (encode i).length ∧
      step s = .next (s.afterFetch e) ∧
      exec i (s.afterFetch e) = .next t ∧
      ticks e.cycles s = .next { t with inflight := none }

/-- The timing law (40_tick_state_machine.md §3): an instruction of N cycles takes exactly N ticks; before the last one
the state is the fetch tick's with the counter at the tick's number, so no effect is visible; at the N-th the core is
Idle; and a sequence of instructions completes at the sum of their cycle counts, Idle. That the counter holds k after k
ticks is no part of the timing law: it is how 10_state.md §4 (R34) defines the counter, the spec's own D30 beside its reading
D9 of the algorithm (log 17). -/
def Obligations.InstructionsTakeTheirDeclaredTicks : Prop :=
  (∀ (s : State) (e : Entry), s.Idle → s.nextEntry = some e →
    (∀ k, 1 ≤ k → k < e.cycles →
      ticks k s = .next { s.afterFetch e with
        inflight := some
          { opcode := memRead1 s.pc s, length := e.length, cycles := e.cycles, execute := e.execute,
            elapsed := k } }) ∧
    ∃ t u, exec (e.execute.instr (s.afterFetch e).z (s.afterFetch e).w) (s.afterFetch e) = .next u ∧
      t = { u with inflight := none } ∧ ticks e.cycles s = .next t ∧ t.Idle) ∧
  (∀ (k : Nat) (s t : State), s.Idle → instructionSteps k s = .next t →
    t.Idle ∧ ticks (cycleSum k s) s = .next t)

/-- The PC timeline (40_tick_state_machine.md R108): only fetch ticks move PC, and they leave the opcode's address plus the
length. -/
def Obligations.PcMovesOnlyOnFetchTicks : Prop :=
  ∀ s t : State, step s = .next t →
    (¬ s.Idle → t.pc = s.pc) ∧
    (∀ e, s.Idle → lookup s.config.table (memRead1 s.pc s) = some e → t.pc = s.pc + BitVec.ofNat 16 e.length)

/-- The operand latches (10_state.md §4): written only on a fetch tick, Z from the first operand byte if there is one, W
from the second if there are two; never cleared. That they keep their bytes is the spec's D18 (log 15). -/
def Obligations.LatchesChangeOnlyOnFetchTicks : Prop :=
  ∀ s t : State, step s = .next t →
    (¬ s.Idle → t.w = s.w ∧ t.z = s.z) ∧
    (∀ e, s.Idle → lookup s.config.table (memRead1 s.pc s) = some e →
      (e.length = 1 → t.z = s.z ∧ t.w = s.w) ∧
      (e.length = 2 → t.z = memRead1 (s.pc + 1) s ∧ t.w = s.w) ∧
      (e.length = 3 → t.z = memRead1 (s.pc + 1) s ∧ t.w = memRead1 (s.pc + 2) s))

/-! ## The exception -/

/-- UnimplementedOpcode is raised on a fetch tick exactly when the opcode at PC has no entry; no counting tick and no
execute routine raises anything (60_exceptions.md R200); and a step never ends in a refusal (R9). -/
def Obligations.FaultsExactlyAtMissingEntries : Prop :=
  (∀ s : State, s.Idle →
    ((∃ f, step s = .fault f) ↔ lookup s.config.table (memRead1 s.pc s) = none)) ∧
  (∀ (s : State) (l : InFlight), s.Counting l → ∃ t, step s = .next t) ∧
  (∀ (i : Instr) (s : State), ∃ t, exec i s = .next t) ∧
  (∀ (s : State) (n : Refusal), step s ≠ .refused n)

/-- What the fault records and leaves (60_exceptions.md §1): the opcode and the address it was read from, PC one past it,
the fault latched, all else as before. The address recorded is the spec's D12, the moment its D11 (log 16). -/
def Obligations.FaultLatchesOpcodeAndAddress : Prop :=
  ∀ s : State, s.Idle → lookup s.config.table (memRead1 s.pc s) = none →
    step s = .fault (.unimplementedOpcode { opcode := memRead1 s.pc s, addr := s.pc }
      { s with
        pc := s.pc + 1
        halted := some { opcode := memRead1 s.pc s, addr := s.pc } })

/-- After the fault the core is Halted for good: each later tick returns the same fault and changes nothing
(60_exceptions.md §1; 40_tick_state_machine.md §2). The spec's D13 (log 8). -/
def Obligations.HaltedCoreRepeatsItsFault : Prop :=
  (∀ (s s' : State) (info : UnimplementedOpcode), step s = .fault (.unimplementedOpcode info s') →
    s'.halted = some info) ∧
  (∀ (k : Nat) (s : State) (info : UnimplementedOpcode), s.halted = some info →
    ticks (k + 1) s = .fault (.unimplementedOpcode info s))

/-! ## Rules about the whole machine -/

/-- The only access that changes memory is STAX B's, on its execute tick, at BC, of A (20_memory.md §2). That B is the high
byte of the address is the pair mapping of 10_state.md §1 (R23), from general knowledge (D4, G2, log 6). -/
def Obligations.OnlyStaxBChangesMemory : Prop :=
  ∀ (s t : State) (q : Word), s.mem.wf = true → step s = .next t → memRead1 q t ≠ memRead1 q s →
    ∃ l, s.Counting l ∧ l.execute = .staxB ∧ l.elapsed + 1 = l.cycles ∧
      q.toNat = 256 * s.b.toNat + s.c.toNat ∧ memRead1 q t = s.a

/-- D, E, SP, the unused bits of F and the configuration keep their values through every tick (10_state.md §1, §2, §3, §5;
40_tick_state_machine.md §2). That the unused bits are plain storage is the spec's D17 (log 14); that the configuration
stands in the state is the model's (log 1). -/
def Obligations.UnaccessedStateNeverChanges : Prop :=
  (∀ s t : State, step s = .next t →
    t.d = s.d ∧ t.e = s.e ∧ t.sp = s.sp ∧ t.config = s.config ∧
    (∀ k, k = 1 ∨ k = 3 ∨ k = 5 → t.f.getLsbD k = s.f.getLsbD k)) ∧
  (∀ (s t : State) (info : UnimplementedOpcode), step s = .fault (.unimplementedOpcode info t) →
    t.d = s.d ∧ t.e = s.e ∧ t.sp = s.sp ∧ t.config = s.config ∧ t.f = s.f)

/-- D, E, SP and the unused bits of F influence nothing: two states that differ only there step to the same outcome and
again differ only there (10_state.md §1, §2, §3, §5: no row reads them; "a claim about a program must not depend on their
value"). -/
def Obligations.UnaccessedStateNeverInfluences : Prop :=
  ∀ s s' : State, s.eraseUnaccessed = s'.eraseUnaccessed →
    (∀ t, step s = .next t → ∃ t', step s' = .next t' ∧ t.eraseUnaccessed = t'.eraseUnaccessed) ∧
    (∀ info t, step s = .fault (.unimplementedOpcode info t) →
      ∃ t', step s' = .fault (.unimplementedOpcode info t') ∧ t.eraseUnaccessed = t'.eraseUnaccessed)

/-- The invariant of the core is kept by every step, from every state that meets it (40_tick_state_machine.md §1;
10_state.md §3, §4; 20_memory.md §1). Its Halted part, the opcode at the latched address and PC one past it, rests on the
address the fault records, D12, and on the moment it is raised, D11 (log 16); its Counting part on the latches keeping
their bytes, D18 (log 15), and on the counter, D30 (log 17). -/
def Obligations.EveryStepKeepsTheInvariant : Prop :=
  ∀ s t : State, s.Inv → step s = .next t → t.Inv

/-- The state at the point of failure meets the invariant too (60_exceptions.md §1): the latched opcode has no entry and
stands at the latched address, one before PC. That the address recorded is the opcode's own is the spec's D12, that PC is
one past it when the fault is raised its D11 (log 16; 93_implementation_defined.md I13). -/
def Obligations.FaultStateMeetsTheInvariant : Prop :=
  ∀ (s t : State) (info : UnimplementedOpcode), s.Inv → step s = .fault (.unimplementedOpcode info t) → t.Inv

/-- Construction with any configuration, any presets and any canonical image meets the invariant, is Idle and not
Halted, and starts at the preset PC (70_reset_and_hazards.md §1). -/
def Obligations.ConstructionMeetsTheInvariant : Prop :=
  State.reset.Inv ∧
  ∀ (c : Config) (image : Memory) (r : InitRegs), image.wf = true →
    (State.construct c image r).Inv ∧ (State.construct c image r).Idle ∧ (State.construct c image r).pc = r.pc

/-- The state after reset, every field (10_state.md §6): the zeros of the registers are the spec's D7 (log 3), unlisted
memory reading 0x00 its D8 (log 4), the configuration's defaults its D1, D14 and D15 (log 2, log 13). -/
def Obligations.ResetValues : Prop :=
  State.reset.pc = 0x0000 ∧ State.reset.sp = 0x0000 ∧
  (∀ r : Reg8, State.reset.reg r = 0x00) ∧
  (∀ q : Word, memRead1 q State.reset = 0x00) ∧
  State.reset.inflight = none ∧ State.reset.halted = none ∧
  State.reset.config = { table := .tRef, auxCarry := .reference, pairAddCarry := .reference }

/-- An instruction boundary is always near: from Idle with an entry at PC an instruction step is the entry's cycles in
ticks and ends Idle; from Counting, in a state that meets the invariant, the ticks left end Idle; never more than ten
ticks (60_exceptions.md §4; 40_tick_state_machine.md §3). The bound rests on the cycle counts, D3 (log 5). -/
def Obligations.InstructionBoundaryIsReached : Prop :=
  (∀ (s : State) (e : Entry), s.Idle → s.nextEntry = some e →
    e.cycles ≤ 10 ∧ instructionStep s = ticks e.cycles s ∧ ∃ t, instructionStep s = .next t ∧ t.Idle) ∧
  (∀ (s : State) (l : InFlight), s.Inv → s.Counting l →
    1 ≤ s.ticksLeft ∧ s.ticksLeft ≤ 9 ∧ ∃ t, ticks s.ticksLeft s = .next t ∧ t.Idle)

/-- Self-modifying code (20_memory.md §3): STAX B onto the instruction after it is seen by that instruction's fetch: on
the eighth tick the byte stored is the opcode fetched, or faults if it has no entry. The address that fault records, the
opcode's own, is the spec's D12 (log 16; 93_implementation_defined.md I13). -/
def Obligations.StoreIsSeenByTheNextFetch : Prop :=
  ∀ s : State, s.mem.wf = true → s.Idle → memRead1 s.pc s = 0x02 → s.pair .bc = s.pc + 1 →
    (∀ e, lookup s.config.table s.a = some e →
      ∃ t, ticks 8 s = .next t ∧
        t.inflight = some
          { opcode := s.a, length := e.length, cycles := e.cycles, execute := e.execute, elapsed := 1 }) ∧
    (lookup s.config.table s.a = none →
      ∃ t, ticks 8 s = .fault (.unimplementedOpcode { opcode := s.a, addr := s.pc + 1 } t))

/-- Inspection shows all of the state but the in-flight latch and the fault latch (70_reset_and_hazards.md §2): states in
which every inspection agrees, and those two and the configuration, are the same. What is exposed is the spec's D22
(log 20). -/
def Obligations.InspectionDeterminesTheState : Prop :=
  ∀ s t : State, s.mem.wf = true → t.mem.wf = true → (∀ q, inspect q s = inspect q t) →
    s.config = t.config → s.inflight = t.inflight → s.halted = t.halted → s = t

/-- The model's own placing of an instruction (log 7): with the table word stored at PC, the very next step ends where the
instruction's cycles end; without an entry it raises what the fetch raises. -/
def Obligations.WithFetchWordRunsTheInstruction : Prop :=
  ∀ (s : State) (nbits w : Nat), s.Idle →
    (∀ e, (memWriteBytes s.pc (tableBytes nbits w) s).nextEntry = some e →
      step (s.withFetchWord nbits w) = ticks e.cycles (memWriteBytes s.pc (tableBytes nbits w) s)) ∧
    ((memWriteBytes s.pc (tableBytes nbits w) s).nextEntry = none →
      step (s.withFetchWord nbits w) = step (memWriteBytes s.pc (tableBytes nbits w) s))
end

