-- ==== Sys2Proof/Laws/Encoding.lean ====
section
/-! SUPPORT. The table, the decoder and the byte-order helpers. -/

namespace Sys2Proof

@[simp] theorem hiByte_joinBytes (h l : Byte) : hiByte (joinBytes h l) = h := by
  ext k hk
  have h1 : 8 + k < 16 := by omega
  have h2 : k < 16 := by omega
  simp [hiByte, joinBytes, hk, h1, h2]

@[simp] theorem loByte_joinBytes (h l : Byte) : loByte (joinBytes h l) = l := by
  ext k hk
  simp [loByte, joinBytes]

@[simp] theorem joinBytes_hi_lo (v : Word) : joinBytes (hiByte v) (loByte v) = v := by
  ext k hk
  by_cases h : k < 8
  · simp [joinBytes, hiByte, loByte, h, BitVec.getLsbD_eq_getElem hk]
  · have h1 : k - 8 < 8 := by omega
    have h2 : 8 + (k - 8) = k := by omega
    simp [joinBytes, hiByte, loByte, h, h1, h2, BitVec.getLsbD_eq_getElem hk]

/-- The value of a pair of bytes (R23). -/
theorem joinBytes_toNat (h l : Byte) : (joinBytes h l).toNat = 256 * h.toNat + l.toNat := by
  have hh := h.isLt
  have hl := l.isLt
  have hshift : h.toNat <<< 8 % 2 ^ 16 = 256 * h.toNat := by rw [Nat.shiftLeft_eq]; omega
  simp only [joinBytes, BitVec.toNat_or, BitVec.toNat_shiftLeft, BitVec.toNat_setWidth]
  rw [Nat.mod_eq_of_lt (a := h.toNat) (by omega), Nat.mod_eq_of_lt (a := l.toNat) (by omega), hshift]
  exact (Nat.two_pow_add_eq_or_of_lt (i := 8) hl h.toNat).symm

theorem hiByte_toNat (v : Word) : (hiByte v).toNat = v.toNat / 256 := by
  have hv := v.isLt
  simp [hiByte, Nat.shiftRight_eq_div_pow]
  omega

theorem loByte_toNat (v : Word) : (loByte v).toNat = v.toNat % 256 := by simp [loByte]

/-- Every entry either table finds: its length, its cycles and its opcode follow from its routine. -/
theorem lookup_entry {t : InstrTable} {op : Byte} {e : Entry} (h : lookup t op = some e) :
    ∃ r ∈ tableRows, r.opcode = op ∧ r.entry = e := by
  unfold lookup at h
  obtain ⟨r, hr, rfl⟩ := Option.map_eq_some_iff.mp h
  have hm := List.mem_of_find?_eq_some hr
  have hp := List.find?_some hr
  refine ⟨r, ?_, by simpa using hp, rfl⟩
  cases t with
  | tRef => exact hm
  | tDoc => exact (List.mem_filter.mp hm).1

/-- The bounds of R83 for every entry found; and every cycle count is at least 4. -/
theorem lookup_bounds {t : InstrTable} {op : Byte} {e : Entry} (h : lookup t op = some e) :
    1 ≤ e.length ∧ e.length ≤ 3 ∧ 4 ≤ e.cycles := by
  obtain ⟨r, hr, -, rfl⟩ := lookup_entry h
  have key : ∀ r ∈ tableRows, 1 ≤ r.entry.length ∧ r.entry.length ≤ 3 ∧ 4 ≤ r.entry.cycles := by decide
  exact key r hr

/-- No instruction takes more than ten ticks (R243). -/
theorem lookup_cycles_le {t : InstrTable} {op : Byte} {e : Entry} (h : lookup t op = some e) : e.cycles ≤ 10 := by
  obtain ⟨r, hr, -, rfl⟩ := lookup_entry h
  have key : ∀ r ∈ tableRows, r.entry.cycles ≤ 10 := by decide
  exact key r hr

end Sys2Proof
end

