-- ==== Sys2Proof/Laws/State.lean ====
section
/-! SUPPORT. One lemma per field per state update, each true by unfolding, so that no later proof unfolds a record
update; and reading a register or a pair after a register write. -/

namespace Sys2Proof.Machine

variable (s : State)

/-! ### State.advancePc -/

@[simp] theorem State.advancePc_config : (s.advancePc).config = s.config := rfl
@[simp] theorem State.advancePc_b : (s.advancePc).b = s.b := rfl
@[simp] theorem State.advancePc_c : (s.advancePc).c = s.c := rfl
@[simp] theorem State.advancePc_d : (s.advancePc).d = s.d := rfl
@[simp] theorem State.advancePc_e : (s.advancePc).e = s.e := rfl
@[simp] theorem State.advancePc_h : (s.advancePc).h = s.h := rfl
@[simp] theorem State.advancePc_l : (s.advancePc).l = s.l := rfl
@[simp] theorem State.advancePc_a : (s.advancePc).a = s.a := rfl
@[simp] theorem State.advancePc_f : (s.advancePc).f = s.f := rfl
@[simp] theorem State.advancePc_w : (s.advancePc).w = s.w := rfl
@[simp] theorem State.advancePc_z : (s.advancePc).z = s.z := rfl
@[simp] theorem State.advancePc_sp : (s.advancePc).sp = s.sp := rfl
@[simp] theorem State.advancePc_pc : (s.advancePc).pc = s.pc + 1 := rfl
@[simp] theorem State.advancePc_mem : (s.advancePc).mem = s.mem := rfl
@[simp] theorem State.advancePc_inflight : (s.advancePc).inflight = s.inflight := rfl
@[simp] theorem State.advancePc_halted : (s.advancePc).halted = s.halted := rfl

/-! ### State.discard -/

@[simp] theorem State.discard_config : (s.discard).config = s.config := rfl
@[simp] theorem State.discard_b : (s.discard).b = s.b := rfl
@[simp] theorem State.discard_c : (s.discard).c = s.c := rfl
@[simp] theorem State.discard_d : (s.discard).d = s.d := rfl
@[simp] theorem State.discard_e : (s.discard).e = s.e := rfl
@[simp] theorem State.discard_h : (s.discard).h = s.h := rfl
@[simp] theorem State.discard_l : (s.discard).l = s.l := rfl
@[simp] theorem State.discard_a : (s.discard).a = s.a := rfl
@[simp] theorem State.discard_f : (s.discard).f = s.f := rfl
@[simp] theorem State.discard_w : (s.discard).w = s.w := rfl
@[simp] theorem State.discard_z : (s.discard).z = s.z := rfl
@[simp] theorem State.discard_sp : (s.discard).sp = s.sp := rfl
@[simp] theorem State.discard_pc : (s.discard).pc = s.pc := rfl
@[simp] theorem State.discard_mem : (s.discard).mem = s.mem := rfl
@[simp] theorem State.discard_inflight : (s.discard).inflight = none := rfl
@[simp] theorem State.discard_halted : (s.discard).halted = s.halted := rfl

/-! ### State.latch -/

@[simp] theorem State.latch_config (op : Byte) (e : Entry) : (s.latch op e).config = s.config := rfl
@[simp] theorem State.latch_b (op : Byte) (e : Entry) : (s.latch op e).b = s.b := rfl
@[simp] theorem State.latch_c (op : Byte) (e : Entry) : (s.latch op e).c = s.c := rfl
@[simp] theorem State.latch_d (op : Byte) (e : Entry) : (s.latch op e).d = s.d := rfl
@[simp] theorem State.latch_e (op : Byte) (e : Entry) : (s.latch op e).e = s.e := rfl
@[simp] theorem State.latch_h (op : Byte) (e : Entry) : (s.latch op e).h = s.h := rfl
@[simp] theorem State.latch_l (op : Byte) (e : Entry) : (s.latch op e).l = s.l := rfl
@[simp] theorem State.latch_a (op : Byte) (e : Entry) : (s.latch op e).a = s.a := rfl
@[simp] theorem State.latch_f (op : Byte) (e : Entry) : (s.latch op e).f = s.f := rfl
@[simp] theorem State.latch_w (op : Byte) (e : Entry) : (s.latch op e).w = s.w := rfl
@[simp] theorem State.latch_z (op : Byte) (e : Entry) : (s.latch op e).z = s.z := rfl
@[simp] theorem State.latch_sp (op : Byte) (e : Entry) : (s.latch op e).sp = s.sp := rfl
@[simp] theorem State.latch_pc (op : Byte) (e : Entry) : (s.latch op e).pc = s.pc := rfl
@[simp] theorem State.latch_mem (op : Byte) (e : Entry) : (s.latch op e).mem = s.mem := rfl
@[simp] theorem State.latch_inflight (op : Byte) (e : Entry) : (s.latch op e).inflight = some { opcode := op, length := e.length, cycles := e.cycles, execute := e.execute, elapsed := 1 } := rfl
@[simp] theorem State.latch_halted (op : Byte) (e : Entry) : (s.latch op e).halted = s.halted := rfl

/-! ### State.setElapsed -/

@[simp] theorem State.setElapsed_config (l : InFlight) (n : Nat) : (s.setElapsed l n).config = s.config := rfl
@[simp] theorem State.setElapsed_b (l : InFlight) (n : Nat) : (s.setElapsed l n).b = s.b := rfl
@[simp] theorem State.setElapsed_c (l : InFlight) (n : Nat) : (s.setElapsed l n).c = s.c := rfl
@[simp] theorem State.setElapsed_d (l : InFlight) (n : Nat) : (s.setElapsed l n).d = s.d := rfl
@[simp] theorem State.setElapsed_e (l : InFlight) (n : Nat) : (s.setElapsed l n).e = s.e := rfl
@[simp] theorem State.setElapsed_h (l : InFlight) (n : Nat) : (s.setElapsed l n).h = s.h := rfl
@[simp] theorem State.setElapsed_l (l : InFlight) (n : Nat) : (s.setElapsed l n).l = s.l := rfl
@[simp] theorem State.setElapsed_a (l : InFlight) (n : Nat) : (s.setElapsed l n).a = s.a := rfl
@[simp] theorem State.setElapsed_f (l : InFlight) (n : Nat) : (s.setElapsed l n).f = s.f := rfl
@[simp] theorem State.setElapsed_w (l : InFlight) (n : Nat) : (s.setElapsed l n).w = s.w := rfl
@[simp] theorem State.setElapsed_z (l : InFlight) (n : Nat) : (s.setElapsed l n).z = s.z := rfl
@[simp] theorem State.setElapsed_sp (l : InFlight) (n : Nat) : (s.setElapsed l n).sp = s.sp := rfl
@[simp] theorem State.setElapsed_pc (l : InFlight) (n : Nat) : (s.setElapsed l n).pc = s.pc := rfl
@[simp] theorem State.setElapsed_mem (l : InFlight) (n : Nat) : (s.setElapsed l n).mem = s.mem := rfl
@[simp] theorem State.setElapsed_inflight (l : InFlight) (n : Nat) : (s.setElapsed l n).inflight = some { l with elapsed := n } := rfl
@[simp] theorem State.setElapsed_halted (l : InFlight) (n : Nat) : (s.setElapsed l n).halted = s.halted := rfl

/-! ### memWrite1 -/

@[simp] theorem memWrite1_config (addr : Word) (v : Byte) : (memWrite1 addr v s).config = s.config := rfl
@[simp] theorem memWrite1_b (addr : Word) (v : Byte) : (memWrite1 addr v s).b = s.b := rfl
@[simp] theorem memWrite1_c (addr : Word) (v : Byte) : (memWrite1 addr v s).c = s.c := rfl
@[simp] theorem memWrite1_d (addr : Word) (v : Byte) : (memWrite1 addr v s).d = s.d := rfl
@[simp] theorem memWrite1_e (addr : Word) (v : Byte) : (memWrite1 addr v s).e = s.e := rfl
@[simp] theorem memWrite1_h (addr : Word) (v : Byte) : (memWrite1 addr v s).h = s.h := rfl
@[simp] theorem memWrite1_l (addr : Word) (v : Byte) : (memWrite1 addr v s).l = s.l := rfl
@[simp] theorem memWrite1_a (addr : Word) (v : Byte) : (memWrite1 addr v s).a = s.a := rfl
@[simp] theorem memWrite1_f (addr : Word) (v : Byte) : (memWrite1 addr v s).f = s.f := rfl
@[simp] theorem memWrite1_w (addr : Word) (v : Byte) : (memWrite1 addr v s).w = s.w := rfl
@[simp] theorem memWrite1_z (addr : Word) (v : Byte) : (memWrite1 addr v s).z = s.z := rfl
@[simp] theorem memWrite1_sp (addr : Word) (v : Byte) : (memWrite1 addr v s).sp = s.sp := rfl
@[simp] theorem memWrite1_pc (addr : Word) (v : Byte) : (memWrite1 addr v s).pc = s.pc := rfl
@[simp] theorem memWrite1_mem (addr : Word) (v : Byte) : (memWrite1 addr v s).mem = s.mem.write addr.toNat v := rfl
@[simp] theorem memWrite1_inflight (addr : Word) (v : Byte) : (memWrite1 addr v s).inflight = s.inflight := rfl
@[simp] theorem memWrite1_halted (addr : Word) (v : Byte) : (memWrite1 addr v s).halted = s.halted := rfl

/-! ### State.stageZ -/

@[simp] theorem State.stageZ_config : (s.stageZ).config = s.config := rfl
@[simp] theorem State.stageZ_b : (s.stageZ).b = s.b := rfl
@[simp] theorem State.stageZ_c : (s.stageZ).c = s.c := rfl
@[simp] theorem State.stageZ_d : (s.stageZ).d = s.d := rfl
@[simp] theorem State.stageZ_e : (s.stageZ).e = s.e := rfl
@[simp] theorem State.stageZ_h : (s.stageZ).h = s.h := rfl
@[simp] theorem State.stageZ_l : (s.stageZ).l = s.l := rfl
@[simp] theorem State.stageZ_a : (s.stageZ).a = s.a := rfl
@[simp] theorem State.stageZ_f : (s.stageZ).f = s.f := rfl
@[simp] theorem State.stageZ_w : (s.stageZ).w = s.w := rfl
@[simp] theorem State.stageZ_z : (s.stageZ).z = memRead1 s.pc s := rfl
@[simp] theorem State.stageZ_sp : (s.stageZ).sp = s.sp := rfl
@[simp] theorem State.stageZ_pc : (s.stageZ).pc = s.pc + 1 := rfl
@[simp] theorem State.stageZ_mem : (s.stageZ).mem = s.mem := rfl
@[simp] theorem State.stageZ_inflight : (s.stageZ).inflight = s.inflight := rfl
@[simp] theorem State.stageZ_halted : (s.stageZ).halted = s.halted := rfl

/-! ### State.stageW -/

@[simp] theorem State.stageW_config : (s.stageW).config = s.config := rfl
@[simp] theorem State.stageW_b : (s.stageW).b = s.b := rfl
@[simp] theorem State.stageW_c : (s.stageW).c = s.c := rfl
@[simp] theorem State.stageW_d : (s.stageW).d = s.d := rfl
@[simp] theorem State.stageW_e : (s.stageW).e = s.e := rfl
@[simp] theorem State.stageW_h : (s.stageW).h = s.h := rfl
@[simp] theorem State.stageW_l : (s.stageW).l = s.l := rfl
@[simp] theorem State.stageW_a : (s.stageW).a = s.a := rfl
@[simp] theorem State.stageW_f : (s.stageW).f = s.f := rfl
@[simp] theorem State.stageW_w : (s.stageW).w = memRead1 s.pc s := rfl
@[simp] theorem State.stageW_z : (s.stageW).z = s.z := rfl
@[simp] theorem State.stageW_sp : (s.stageW).sp = s.sp := rfl
@[simp] theorem State.stageW_pc : (s.stageW).pc = s.pc + 1 := rfl
@[simp] theorem State.stageW_mem : (s.stageW).mem = s.mem := rfl
@[simp] theorem State.stageW_inflight : (s.stageW).inflight = s.inflight := rfl
@[simp] theorem State.stageW_halted : (s.stageW).halted = s.halted := rfl

/-! ### State.setFlag -/

@[simp] theorem State.setFlag_config (f : Flag) (x : Bool) : (s.setFlag f x).config = s.config := rfl
@[simp] theorem State.setFlag_b (f : Flag) (x : Bool) : (s.setFlag f x).b = s.b := rfl
@[simp] theorem State.setFlag_c (f : Flag) (x : Bool) : (s.setFlag f x).c = s.c := rfl
@[simp] theorem State.setFlag_d (f : Flag) (x : Bool) : (s.setFlag f x).d = s.d := rfl
@[simp] theorem State.setFlag_e (f : Flag) (x : Bool) : (s.setFlag f x).e = s.e := rfl
@[simp] theorem State.setFlag_h (f : Flag) (x : Bool) : (s.setFlag f x).h = s.h := rfl
@[simp] theorem State.setFlag_l (f : Flag) (x : Bool) : (s.setFlag f x).l = s.l := rfl
@[simp] theorem State.setFlag_a (f : Flag) (x : Bool) : (s.setFlag f x).a = s.a := rfl
@[simp] theorem State.setFlag_f (f : Flag) (x : Bool) : (s.setFlag f x).f = withFlag f x s.f := rfl
@[simp] theorem State.setFlag_w (f : Flag) (x : Bool) : (s.setFlag f x).w = s.w := rfl
@[simp] theorem State.setFlag_z (f : Flag) (x : Bool) : (s.setFlag f x).z = s.z := rfl
@[simp] theorem State.setFlag_sp (f : Flag) (x : Bool) : (s.setFlag f x).sp = s.sp := rfl
@[simp] theorem State.setFlag_pc (f : Flag) (x : Bool) : (s.setFlag f x).pc = s.pc := rfl
@[simp] theorem State.setFlag_mem (f : Flag) (x : Bool) : (s.setFlag f x).mem = s.mem := rfl
@[simp] theorem State.setFlag_inflight (f : Flag) (x : Bool) : (s.setFlag f x).inflight = s.inflight := rfl
@[simp] theorem State.setFlag_halted (f : Flag) (x : Bool) : (s.setFlag f x).halted = s.halted := rfl

/-! ### State.setSZP -/

@[simp] theorem State.setSZP_config (v : Byte) : (s.setSZP v).config = s.config := rfl
@[simp] theorem State.setSZP_b (v : Byte) : (s.setSZP v).b = s.b := rfl
@[simp] theorem State.setSZP_c (v : Byte) : (s.setSZP v).c = s.c := rfl
@[simp] theorem State.setSZP_d (v : Byte) : (s.setSZP v).d = s.d := rfl
@[simp] theorem State.setSZP_e (v : Byte) : (s.setSZP v).e = s.e := rfl
@[simp] theorem State.setSZP_h (v : Byte) : (s.setSZP v).h = s.h := rfl
@[simp] theorem State.setSZP_l (v : Byte) : (s.setSZP v).l = s.l := rfl
@[simp] theorem State.setSZP_a (v : Byte) : (s.setSZP v).a = s.a := rfl
@[simp] theorem State.setSZP_f (v : Byte) : (s.setSZP v).f = withFlag .p (hasEvenParity v) (withFlag .z (isZero v) (withFlag .s (isSigned v) s.f)) := rfl
@[simp] theorem State.setSZP_w (v : Byte) : (s.setSZP v).w = s.w := rfl
@[simp] theorem State.setSZP_z (v : Byte) : (s.setSZP v).z = s.z := rfl
@[simp] theorem State.setSZP_sp (v : Byte) : (s.setSZP v).sp = s.sp := rfl
@[simp] theorem State.setSZP_pc (v : Byte) : (s.setSZP v).pc = s.pc := rfl
@[simp] theorem State.setSZP_mem (v : Byte) : (s.setSZP v).mem = s.mem := rfl
@[simp] theorem State.setSZP_inflight (v : Byte) : (s.setSZP v).inflight = s.inflight := rfl
@[simp] theorem State.setSZP_halted (v : Byte) : (s.setSZP v).halted = s.halted := rfl

/-! ### writeCountB -/

@[simp] theorem writeCountB_config (k : AuxKind) (r : Byte) : (writeCountB k r s).config = s.config := rfl
@[simp] theorem writeCountB_b (k : AuxKind) (r : Byte) : (writeCountB k r s).b = r := rfl
@[simp] theorem writeCountB_c (k : AuxKind) (r : Byte) : (writeCountB k r s).c = s.c := rfl
@[simp] theorem writeCountB_d (k : AuxKind) (r : Byte) : (writeCountB k r s).d = s.d := rfl
@[simp] theorem writeCountB_e (k : AuxKind) (r : Byte) : (writeCountB k r s).e = s.e := rfl
@[simp] theorem writeCountB_h (k : AuxKind) (r : Byte) : (writeCountB k r s).h = s.h := rfl
@[simp] theorem writeCountB_l (k : AuxKind) (r : Byte) : (writeCountB k r s).l = s.l := rfl
@[simp] theorem writeCountB_a (k : AuxKind) (r : Byte) : (writeCountB k r s).a = s.a := rfl
@[simp] theorem writeCountB_w (k : AuxKind) (r : Byte) : (writeCountB k r s).w = s.w := rfl
@[simp] theorem writeCountB_z (k : AuxKind) (r : Byte) : (writeCountB k r s).z = s.z := rfl
@[simp] theorem writeCountB_sp (k : AuxKind) (r : Byte) : (writeCountB k r s).sp = s.sp := rfl
@[simp] theorem writeCountB_pc (k : AuxKind) (r : Byte) : (writeCountB k r s).pc = s.pc := rfl
@[simp] theorem writeCountB_mem (k : AuxKind) (r : Byte) : (writeCountB k r s).mem = s.mem := rfl
@[simp] theorem writeCountB_inflight (k : AuxKind) (r : Byte) : (writeCountB k r s).inflight = s.inflight := rfl
@[simp] theorem writeCountB_halted (k : AuxKind) (r : Byte) : (writeCountB k r s).halted = s.halted := rfl

/-! ### State.afterFetch -/

@[simp] theorem State.afterFetch_config (e : Entry) : (s.afterFetch e).config = s.config := rfl
@[simp] theorem State.afterFetch_b (e : Entry) : (s.afterFetch e).b = s.b := rfl
@[simp] theorem State.afterFetch_c (e : Entry) : (s.afterFetch e).c = s.c := rfl
@[simp] theorem State.afterFetch_d (e : Entry) : (s.afterFetch e).d = s.d := rfl
@[simp] theorem State.afterFetch_e (e : Entry) : (s.afterFetch e).e = s.e := rfl
@[simp] theorem State.afterFetch_h (e : Entry) : (s.afterFetch e).h = s.h := rfl
@[simp] theorem State.afterFetch_l (e : Entry) : (s.afterFetch e).l = s.l := rfl
@[simp] theorem State.afterFetch_a (e : Entry) : (s.afterFetch e).a = s.a := rfl
@[simp] theorem State.afterFetch_f (e : Entry) : (s.afterFetch e).f = s.f := rfl
@[simp] theorem State.afterFetch_w (e : Entry) : (s.afterFetch e).w = if e.length = 3 then memRead1 (s.pc + 2) s else s.w := rfl
@[simp] theorem State.afterFetch_z (e : Entry) : (s.afterFetch e).z = if 2 ≤ e.length then memRead1 (s.pc + 1) s else s.z := rfl
@[simp] theorem State.afterFetch_sp (e : Entry) : (s.afterFetch e).sp = s.sp := rfl
@[simp] theorem State.afterFetch_pc (e : Entry) : (s.afterFetch e).pc = s.pc + BitVec.ofNat 16 e.length := rfl
@[simp] theorem State.afterFetch_mem (e : Entry) : (s.afterFetch e).mem = s.mem := rfl
@[simp] theorem State.afterFetch_inflight (e : Entry) : (s.afterFetch e).inflight = some { opcode := memRead1 s.pc s, length := e.length, cycles := e.cycles, execute := e.execute, elapsed := 1 } := rfl
@[simp] theorem State.afterFetch_halted (e : Entry) : (s.afterFetch e).halted = s.halted := rfl

/-! ### State.setReg -/

@[simp] theorem State.setReg_config (r : Reg8) (v : Byte) : (s.setReg r v).config = s.config := by cases r <;> rfl
@[simp] theorem State.setReg_sp (r : Reg8) (v : Byte) : (s.setReg r v).sp = s.sp := by cases r <;> rfl
@[simp] theorem State.setReg_pc (r : Reg8) (v : Byte) : (s.setReg r v).pc = s.pc := by cases r <;> rfl
@[simp] theorem State.setReg_mem (r : Reg8) (v : Byte) : (s.setReg r v).mem = s.mem := by cases r <;> rfl
@[simp] theorem State.setReg_inflight (r : Reg8) (v : Byte) : (s.setReg r v).inflight = s.inflight := by cases r <;> rfl
@[simp] theorem State.setReg_halted (r : Reg8) (v : Byte) : (s.setReg r v).halted = s.halted := by cases r <;> rfl

@[simp] theorem State.reg_setReg (r q : Reg8) (v : Byte) :
    (s.setReg r v).reg q = if q = r then v else s.reg q := by cases r <;> cases q <;> rfl

/-! ### State.setPair -/

@[simp] theorem State.setPair_config (p : Pair) (v : Word) : (s.setPair p v).config = s.config := by cases p <;> rfl
@[simp] theorem State.setPair_sp (p : Pair) (v : Word) : (s.setPair p v).sp = s.sp := by cases p <;> rfl
@[simp] theorem State.setPair_pc (p : Pair) (v : Word) : (s.setPair p v).pc = s.pc := by cases p <;> rfl
@[simp] theorem State.setPair_mem (p : Pair) (v : Word) : (s.setPair p v).mem = s.mem := by cases p <;> rfl
@[simp] theorem State.setPair_inflight (p : Pair) (v : Word) : (s.setPair p v).inflight = s.inflight := by cases p <;> rfl
@[simp] theorem State.setPair_halted (p : Pair) (v : Word) : (s.setPair p v).halted = s.halted := by cases p <;> rfl

/-! ### Reading through the accessors -/

@[simp] theorem State.reg_b : s.reg .b = s.b := rfl
@[simp] theorem State.reg_c : s.reg .c = s.c := rfl
@[simp] theorem State.reg_d : s.reg .d = s.d := rfl
@[simp] theorem State.reg_e : s.reg .e = s.e := rfl
@[simp] theorem State.reg_h : s.reg .h = s.h := rfl
@[simp] theorem State.reg_l : s.reg .l = s.l := rfl
@[simp] theorem State.reg_a : s.reg .a = s.a := rfl
@[simp] theorem State.reg_f : s.reg .f = s.f := rfl
@[simp] theorem State.reg_w : s.reg .w = s.w := rfl
@[simp] theorem State.reg_z : s.reg .z = s.z := rfl

/-- Two states with the same ten registers and the same other fields are the same state. -/
theorem State.ext_reg {s t : State} (hr : ∀ r, t.reg r = s.reg r) (hc : t.config = s.config) (hsp : t.sp = s.sp)
    (hpc : t.pc = s.pc) (hm : t.mem = s.mem) (hi : t.inflight = s.inflight) (hh : t.halted = s.halted) : t = s := by
  have hb := hr .b; have hc' := hr .c; have hd := hr .d; have he := hr .e; have hh' := hr .h
  have hl := hr .l; have ha := hr .a; have hf := hr .f; have hw := hr .w; have hz := hr .z
  cases s; cases t; simp_all [State.reg]

end Sys2Proof.Machine
end

