-- ==== Sys2Proof/Laws/Memory.lean ====
section
/-! SUPPORT. Memory: what a read gives after a write, that a write keeps the canonical form, and that canonical memories
with the same bytes are the same list. -/

namespace Sys2Proof.Machine

theorem Memory.wfFrom_mono {lo hi : Nat} {m : Memory} (h : lo ≤ hi) (hm : Memory.wfFrom hi m = true) :
    Memory.wfFrom lo m = true := by
  cases m with
  | nil => rfl
  | cons c m =>
    obtain ⟨a, v⟩ := c
    simp only [Memory.wfFrom, Bool.and_eq_true, decide_eq_true_eq] at hm ⊢
    exact ⟨⟨⟨h.trans hm.1.1.1, hm.1.1.2⟩, hm.1.2⟩, hm.2⟩

/-- A canonical memory reads blank below its first cell. -/
theorem Memory.read_below {lo : Nat} {m : Memory} (hm : Memory.wfFrom lo m = true) {a : Nat} (ha : a < lo) :
    m.read a = Memory.blank := by
  induction m generalizing lo with
  | nil => rfl
  | cons c m ih =>
    obtain ⟨k, v⟩ := c
    simp only [Memory.wfFrom, Bool.and_eq_true, decide_eq_true_eq] at hm
    have hk : k ≠ a := by omega
    simp only [Memory.read, hk, if_false]
    exact ih hm.2 (by omega)

theorem Memory.read_cons (a : Nat) (v : Byte) (m : Memory) (h : m.read a = Memory.blank) (b : Nat) :
    (Memory.cons a v m).read b = if b = a then v else m.read b := by
  unfold Memory.cons
  split
  · rename_i hv
    split
    · rename_i hb; rw [hb, h, hv]
    · rfl
  · simp [Memory.read, eq_comm]

/-- The read-after-write law on a canonical memory: the byte written at its address, every other byte as before. -/
theorem Memory.read_write {lo : Nat} {m : Memory} (hm : Memory.wfFrom lo m = true) (a : Nat) (v : Byte) (b : Nat) :
    (m.write a v).read b = if b = a then v else m.read b := by
  induction m generalizing lo with
  | nil => exact Memory.read_cons a v [] rfl b
  | cons c m ih =>
    obtain ⟨k, x⟩ := c
    simp only [Memory.wfFrom, Bool.and_eq_true, decide_eq_true_eq] at hm
    simp only [Memory.write]
    split
    · rename_i hak
      refine Memory.read_cons a v _ ?_ b
      simp only [Memory.read, show k ≠ a by omega, if_false]
      exact Memory.read_below hm.2 (by omega)
    · split
      · rename_i h1 h2
        subst h2
        rw [Memory.read_cons a v m (Memory.read_below hm.2 (by omega))]
        by_cases hb : b = a
        · simp [hb]
        · simp [hb, Memory.read, Ne.symm hb]
      · rename_i h1 h2
        by_cases hb : k = b
        · subst hb; simp [Memory.read, Ne.symm h2]
        · simp [Memory.read, hb, ih hm.2]

theorem Memory.wfFrom_cons {lo a : Nat} {v : Byte} {m : Memory} (h1 : lo ≤ a) (h2 : a < 65536)
    (hm : Memory.wfFrom (a + 1) m = true) : Memory.wfFrom lo (Memory.cons a v m) = true := by
  unfold Memory.cons
  split
  · exact Memory.wfFrom_mono (by omega) hm
  · simp [Memory.wfFrom, *]

theorem Memory.wfFrom_write {lo a : Nat} {v : Byte} {m : Memory} (h1 : lo ≤ a) (h2 : a < 65536)
    (hm : Memory.wfFrom lo m = true) : Memory.wfFrom lo (m.write a v) = true := by
  induction m generalizing lo with
  | nil => exact Memory.wfFrom_cons h1 h2 rfl
  | cons c m ih =>
    obtain ⟨k, x⟩ := c
    simp only [Memory.wfFrom, Bool.and_eq_true, decide_eq_true_eq] at hm
    simp only [Memory.write]
    split
    · rename_i hak
      refine Memory.wfFrom_cons h1 h2 ?_
      simp only [Memory.wfFrom, Bool.and_eq_true, decide_eq_true_eq]
      exact ⟨⟨⟨hak, hm.1.1.2⟩, hm.1.2⟩, hm.2⟩
    · split
      · rename_i hak hk
        subst hk
        exact Memory.wfFrom_cons h1 h2 hm.2
      · rename_i hak hk
        simp only [Memory.wfFrom, Bool.and_eq_true, decide_eq_true_eq]
        exact ⟨hm.1, ih (by omega) hm.2⟩

/-- A write inside the address space keeps the canonical form. -/
theorem Memory.wf_write {m : Memory} (hm : m.wf = true) {a : Nat} (ha : a < 65536) (v : Byte) :
    (m.write a v).wf = true := Memory.wfFrom_write (Nat.zero_le a) ha hm

/-- Every write the core makes keeps the canonical form. -/
theorem memWrite1_wf {s : State} (hs : s.mem.wf = true) (addr : Word) (v : Byte) : (memWrite1 addr v s).mem.wf = true :=
  Memory.wf_write hs addr.isLt v

theorem memWrite2_wf {s : State} (hs : s.mem.wf = true) (addr v : Word) : (memWrite2 addr v s).mem.wf = true :=
  memWrite1_wf (memWrite1_wf hs _ _) _ _

theorem memWriteBytes_wf {s : State} (hs : s.mem.wf = true) (addr : Word) (bytes : List Byte) :
    (memWriteBytes addr bytes s).mem.wf = true := by
  induction bytes generalizing s addr with
  | nil => exact hs
  | cons v rest ih => exact ih (memWrite1_wf hs addr v) (addr + 1)

/-- Reset memory is canonical. -/
theorem reset_mem_wf : State.reset.mem.wf = true := rfl

/-- The read-after-write law in the machine's own terms. -/
theorem memRead1_memWrite1 {s : State} (hs : s.mem.wf = true) (addr q : Word) (v : Byte) :
    memRead1 q (memWrite1 addr v s) = if q = addr then v else memRead1 q s := by
  simp only [memRead1, memWrite1_mem, Memory.read_write hs, BitVec.toNat_inj]

/-- A read depends on the memory alone. -/
theorem memRead1_congr {s t : State} (h : s.mem = t.mem) (q : Word) : memRead1 q s = memRead1 q t := by
  simp only [memRead1, h]

end Sys2Proof.Machine
end

