-- ==== Sys2Proof/Laws/Exec.lean ====
section
/-! SUPPORT. Everything an execute routine can do, said once: it always answers a next state, and that state differs from
the old one only where R37's "writes" column allows. -/

namespace Sys2Proof.Machine

/-- No execute routine stops (R83 (c), R200). -/
theorem exec_answers (i : Instr) (s : State) : ∃ t, exec i s = .next t := by
  cases i <;> exact ⟨_, rfl⟩

/-- What every execute routine leaves alone: configuration, PC, SP, the latches, D and E (R36, R37, R83 (a)). -/
structure ExecKeeps (s t : State) : Prop where
  config   : t.config = s.config
  d        : t.d = s.d
  e        : t.e = s.e
  w        : t.w = s.w
  z        : t.z = s.z
  sp       : t.sp = s.sp
  pc       : t.pc = s.pc
  inflight : t.inflight = s.inflight
  halted   : t.halted = s.halted

theorem exec_keeps {i : Instr} {s t : State} (h : exec i s = .next t) : ExecKeeps s t := by
  cases i <;> cases h <;> constructor <;> rfl

/-- The memory an execute routine leaves: STAX B stores A at BC, nothing else stores (R56). -/
theorem exec_mem {i : Instr} {s t : State} (h : exec i s = .next t) :
    t.mem = if i = .staxB then s.mem.write (s.pair .bc).toNat s.a else s.mem := by
  cases i <;> cases h <;> rfl

/-- An execute routine keeps the canonical form of memory. -/
theorem exec_wf {i : Instr} {s t : State} (h : exec i s = .next t) (hs : s.mem.wf = true) : t.mem.wf = true := by
  rw [exec_mem h]
  split
  · exact Memory.wf_write hs (s.pair .bc).isLt _
  · exact hs

/-- An execute routine neither reads nor writes the in-flight latch: running it and then discarding the latch gives the
same state whatever the latch holds. -/
theorem exec_any_latch {i : Instr} {s t : State} (h : exec i s = .next t) (o : Option InFlight) :
    exec i { s with inflight := o } = .next { t with inflight := o } := by
  cases i <;> cases h <;> rfl

end Sys2Proof.Machine
end

