-- ==== Sys2Proof/Laws/Flags.lean ====
section
/-! SUPPORT. The flags byte: what one flag write does to every bit of F. -/

namespace Sys2Proof.Machine

/-- Bit k of a byte after a flag write: the flag's own bit takes the value, every other bit is as before. -/
theorem withFlag_bit (f : Flag) (x : Bool) (v : Byte) (k : Nat) (hk : k < 8) :
    (withFlag f x v).getLsbD k = if k = f.pos then x else v.getLsbD k := by
  obtain rfl | rfl | rfl | rfl | rfl | rfl | rfl | rfl :
      k = 0 ∨ k = 1 ∨ k = 2 ∨ k = 3 ∨ k = 4 ∨ k = 5 ∨ k = 6 ∨ k = 7 := by omega
  all_goals cases f <;> cases x <;> simp [withFlag, Flag.pos]

/-- The positions are bits of a byte. -/
theorem Flag.pos_lt (f : Flag) : f.pos < 8 := by cases f <;> decide

/-- No two flags share a bit (R28). -/
theorem Flag.pos_inj (f g : Flag) : f.pos = g.pos ↔ f = g := by cases f <;> cases g <;> simp [Flag.pos]

/-- Reading a flag after writing one. -/
theorem State.flag_setFlag (s : State) (f g : Flag) (x : Bool) :
    (s.setFlag f x).flag g = if g = f then x else s.flag g := by
  simp only [State.flag, State.setFlag_f, withFlag_bit f x s.f g.pos g.pos_lt, Flag.pos_inj]

/-- Everything the flag update of INR and DCR does (R161, R162): the four flags it writes, the four bits of F it leaves,
and the two fields it changes. -/
theorem writeCountB_spec (k : AuxKind) (r : Byte) (s : State) :
    (writeCountB k r s).flag .s = isSigned r ∧
    (writeCountB k r s).flag .z = isZero r ∧
    (writeCountB k r s).flag .p = hasEvenParity r ∧
    (writeCountB k r s).flag .ac = auxiliaryCarry s.config.auxCarry r k ∧
    (∀ j, j = 0 ∨ j = 1 ∨ j = 3 ∨ j = 5 → (writeCountB k r s).f.getLsbD j = s.f.getLsbD j) ∧
    writeCountB k r s = { s with b := r, f := (writeCountB k r s).f } := by
  refine ⟨?_, ?_, ?_, ?_, ?_, rfl⟩
  · simp [writeCountB, State.setSZP, State.flag_setFlag, -State.setFlag_f]
  · simp [writeCountB, State.setSZP, State.flag_setFlag, -State.setFlag_f]
  · simp [writeCountB, State.setSZP, State.flag_setFlag, -State.setFlag_f]
  · simp [writeCountB, State.setSZP, State.flag_setFlag, -State.setFlag_f]
  · rintro j (rfl | rfl | rfl | rfl)
    all_goals
      rw [writeCountB, State.setFlag_f, withFlag_bit _ _ _ _ (by decide), State.setSZP_f,
        withFlag_bit _ _ _ _ (by decide), withFlag_bit _ _ _ _ (by decide), withFlag_bit _ _ _ _ (by decide)]
      rfl

end Sys2Proof.Machine
end

