-- ==== Sys2Proof/Laws/PerInstr.lean ====
section
/-! SUPPORT. Statements made per instruction: the form of its encoding. -/

namespace Sys2Proof.Laws.EncodedForm

/-- The bytes of an instruction start with an opcode whose entry in the reference table names the instruction's routine
and has the bytes' length (R70, R71, R84). -/
def Statement (i : Instr) : Prop :=
  ∃ op e, (encode i).head? = some op ∧ lookup .tRef op = some e ∧ e.execute = i.routine ∧ e.length = (encode i).length

theorem nop : Statement .nop := ⟨_, _, rfl, rfl, rfl, rfl⟩
theorem lxiB (d16 : Word) : Statement (.lxiB d16) := ⟨_, _, rfl, rfl, rfl, rfl⟩
theorem staxB : Statement .staxB := ⟨_, _, rfl, rfl, rfl, rfl⟩
theorem inxB : Statement .inxB := ⟨_, _, rfl, rfl, rfl, rfl⟩
theorem inrB : Statement .inrB := ⟨_, _, rfl, rfl, rfl, rfl⟩
theorem dcrB : Statement .dcrB := ⟨_, _, rfl, rfl, rfl, rfl⟩
theorem mviB (d8 : Byte) : Statement (.mviB d8) := ⟨_, _, rfl, rfl, rfl, rfl⟩
theorem rlc : Statement .rlc := ⟨_, _, rfl, rfl, rfl, rfl⟩
theorem dadB : Statement .dadB := ⟨_, _, rfl, rfl, rfl, rfl⟩

end Sys2Proof.Laws.EncodedForm
end

