-- ==== Sys2Proof/Laws/Tick.lean ====
section
/-! SUPPORT. Everything a tick can do, said once, and the arithmetic of a number of ticks. -/

namespace Sys2Proof.Machine

/-- Staging the operands of an entry found, and latching it, leaves the state R104 describes. -/
theorem stage_eq_afterFetch {s : State} {e : Entry} (h : s.nextEntry = some e) :
    (s.advancePc.stageOperands e.length).latch (memRead1 s.pc s) e = s.afterFetch e := by
  obtain ⟨h1, h3, -⟩ := lookup_bounds h
  obtain h | h | h : e.length = 1 ∨ e.length = 2 ∨ e.length = 3 := by omega
  · simp [State.stageOperands, State.latch, State.afterFetch, State.advancePc, h]
  · simp [State.stageOperands, State.latch, State.afterFetch, State.advancePc, State.stageZ, memRead1, h, BitVec.add_assoc]
  · simp [State.stageOperands, State.latch, State.afterFetch, State.advancePc, State.stageZ, State.stageW, memRead1, h,
      BitVec.add_assoc]

/-- The fetch tick, with an entry at PC. -/
theorem tick_fetch {s : State} {e : Entry} (hs : s.Idle) (h : s.nextEntry = some e) :
    tick s = .next (s.afterFetch e) := by
  have h' : lookup s.config.table (memRead1 s.pc s) = some e := h
  simp only [tick, hs.1, hs.2, fetchTick, h', stage_eq_afterFetch h]

/-- The fetch tick, without one. -/
theorem tick_no_entry {s : State} (hs : s.Idle) (h : s.nextEntry = none) :
    tick s = raiseUnimplementedOpcode (memRead1 s.pc s) s.pc s.advancePc := by
  have h' : lookup s.config.table (memRead1 s.pc s) = none := h
  simp only [tick, hs.1, hs.2, fetchTick, h']

/-- A counting tick. -/
theorem tick_counting {s : State} {l : InFlight} (hs : s.Counting l) : tick s = countingTick l s := by
  simp only [tick, hs.1, hs.2]

/-- A tick of the Halted core. -/
theorem tick_halted {s : State} {info : UnimplementedOpcode} (hs : s.halted = some info) :
    tick s = .fault (.unimplementedOpcode info s) := by simp only [tick, hs]

/-- A counting tick that waits. -/
theorem countingTick_wait {s : State} {l : InFlight} (h : l.elapsed + 1 ≠ l.cycles) :
    countingTick l s = .next (s.setElapsed l (l.elapsed + 1)) := by simp only [countingTick, h, if_false]

/-- A counting tick that executes. -/
theorem countingTick_execute {s t : State} {l : InFlight} (h : l.elapsed + 1 = l.cycles)
    (ht : exec (s.latchedInstr l) s = .next t) : countingTick l s = .next t.discard := by
  simp only [countingTick, h, if_true, ht, discardLatch]

/-- A step that answers a next state did one of three things: fetched, waited or executed. -/
theorem tick_next_cases {s t : State} (h : tick s = .next t) :
    (∃ e, s.Idle ∧ s.nextEntry = some e ∧ t = s.afterFetch e) ∨
    (∃ l, s.Counting l ∧ l.elapsed + 1 ≠ l.cycles ∧ t = s.setElapsed l (l.elapsed + 1)) ∨
    (∃ l u, s.Counting l ∧ l.elapsed + 1 = l.cycles ∧ exec (s.latchedInstr l) s = .next u ∧ t = u.discard) := by
  cases hh : s.halted with
  | some info => rw [tick_halted hh] at h; cases h
  | none =>
    cases hi : s.inflight with
    | none =>
      cases he : s.nextEntry with
      | none => rw [tick_no_entry ⟨hh, hi⟩ he] at h; cases h
      | some e => rw [tick_fetch ⟨hh, hi⟩ he] at h; cases h; exact .inl ⟨e, ⟨hh, hi⟩, rfl, rfl⟩
    | some l =>
      rw [tick_counting ⟨hh, hi⟩] at h
      by_cases hc : l.elapsed + 1 = l.cycles
      · obtain ⟨u, hu⟩ := exec_answers (s.latchedInstr l) s
        rw [countingTick_execute hc hu] at h
        cases h
        exact .inr (.inr ⟨l, u, ⟨hh, hi⟩, hc, hu, rfl⟩)
      · rw [countingTick_wait hc] at h
        cases h
        exact .inr (.inl ⟨l, ⟨hh, hi⟩, hc, rfl⟩)

/-- A step that answers a fault is a tick of the Halted core or a fetch tick without an entry. -/
theorem tick_fault_cases {s t : State} {info : UnimplementedOpcode} (h : tick s = .fault (.unimplementedOpcode info t)) :
    (s.halted = some info ∧ t = s) ∨
    (s.Idle ∧ s.nextEntry = none ∧ info = { opcode := memRead1 s.pc s, addr := s.pc } ∧
      t = { s.advancePc with halted := some info }) := by
  cases hh : s.halted with
  | some j => rw [tick_halted hh] at h; cases h; exact .inl ⟨rfl, rfl⟩
  | none =>
    cases hi : s.inflight with
    | none =>
      cases he : s.nextEntry with
      | none => rw [tick_no_entry ⟨hh, hi⟩ he] at h; cases h; exact .inr ⟨⟨hh, hi⟩, rfl, rfl, rfl⟩
      | some e => rw [tick_fetch ⟨hh, hi⟩ he] at h; cases h
    | some l =>
      rw [tick_counting ⟨hh, hi⟩] at h
      by_cases hc : l.elapsed + 1 = l.cycles
      · obtain ⟨u, hu⟩ := exec_answers (s.latchedInstr l) s
        rw [countingTick_execute hc hu] at h
        cases h
      · rw [countingTick_wait hc] at h
        cases h

/-! ## Several ticks -/

@[simp] theorem ticks_zero (s : State) : ticks 0 s = .next s := rfl

theorem ticks_succ {s t : State} (k : Nat) (h : tick s = .next t) : ticks (k + 1) s = ticks k t := by
  simp only [ticks, h]

/-- Ticks add up. -/
theorem ticks_add {s t : State} (j k : Nat) (h : ticks j s = .next t) : ticks (j + k) s = ticks k t := by
  induction j generalizing s with
  | zero => cases h; rw [Nat.zero_add]
  | succ j ih =>
    rw [Nat.succ_add]
    cases ht : tick s with
    | next u => rw [ticks_succ _ ht] at h ⊢; exact ih h
    | fault f => simp only [ticks, ht] at h; cases h
    | refused n => simp only [ticks, ht] at h; cases h

/-- Waiting: `n` ticks short of the cycle count only move the counter (R109). -/
theorem ticks_wait {s : State} {l : InFlight} (hs : s.Counting l) (n : Nat) (h : l.elapsed + n < l.cycles) :
    ticks n s = .next (s.setElapsed l (l.elapsed + n)) := by
  induction n generalizing s l with
  | zero =>
    have hi := hs.2
    cases s
    simp_all [State.setElapsed]
  | succ n ih =>
    have h1 : tick s = .next (s.setElapsed l (l.elapsed + 1)) := by
      rw [tick_counting hs, countingTick_wait (by omega)]
    rw [ticks_succ _ h1,
      ih (s := s.setElapsed l (l.elapsed + 1)) (l := { l with elapsed := l.elapsed + 1 }) ⟨hs.1, rfl⟩ (by simp; omega)]
    simp only [State.setElapsed, Nat.add_assoc, Nat.add_comm 1 n]

/-- Finishing: the ticks an instruction in flight still takes end in what its routine leaves, Idle (R105, R107). -/
theorem ticks_finish {s t : State} {l : InFlight} (hs : s.Counting l) (h : l.elapsed < l.cycles)
    (ht : exec (s.latchedInstr l) s = .next t) : ticks (l.cycles - l.elapsed) s = .next t.discard := by
  obtain ⟨n, hn⟩ : ∃ n, l.cycles - l.elapsed = n + 1 := ⟨l.cycles - l.elapsed - 1, by omega⟩
  rw [hn, ticks_add n 1 (ticks_wait hs n (by omega))]
  have hx := exec_any_latch ht (some { l with elapsed := l.elapsed + n })
  have hlast : tick (s.setElapsed l (l.elapsed + n)) = .next t.discard :=
    (tick_counting (s := s.setElapsed l (l.elapsed + n)) (l := { l with elapsed := l.elapsed + n }) ⟨hs.1, rfl⟩).trans
      (countingTick_execute (t := { t with inflight := some { l with elapsed := l.elapsed + n } }) (by simp; omega) hx)
  rw [ticks_succ 0 hlast, ticks_zero]

/-- One step of the host's run of a machine, by the step's outcome. -/
theorem run_step (M : Host.Core) (k : Nat) (s : M.State) :
    M.run (k + 1) s = match M.step s with
      | .next t => M.run k t
      | .fault r => .fault r
      | .refused r => .refused r := rfl

/-- The host's run of the core is `ticks`. -/
theorem core_run_eq_ticks (k : Nat) (s : State) : Sys2Proof.core.run k s = ticks k s := by
  induction k generalizing s with
  | zero => rfl
  | succ k ih =>
    have h0 : Sys2Proof.core.step s = tick s := rfl
    refine (run_step Sys2Proof.core k s).trans ?_
    cases h : tick s with
    | next t => rw [ticks_succ _ h, h0, h]; exact ih t
    | fault f => rw [h0]; simp only [ticks, h]; rfl
    | refused n => rw [h0]; simp only [ticks, h]; rfl

end Sys2Proof.Machine
end

