-- ==== Sys2Proof/Tests/Slice0.lean ====
section
/-! SUPPORT. Tests whose expected results are copied from 95_test_vectors.md (each names its vector) or written out from
the encodings; the smoke test of the well-formedness checks; and, for every statement with hypotheses, a state and
operands that meet them all. -/

namespace Sys2Proof.Tests

open Sys2Proof Sys2Proof.Machine

/-! ## Small states -/

/-- The constructed state with bytes at PC. -/
def at_ (pc : Word) (bytes : List Byte) : State := memWriteBytes pc bytes { State.reset with pc := pc }

/-- The reset state with registers set through the accessor. -/
def regs (l : List (Reg8 × Byte)) : State := l.foldl (fun s x => s.setReg x.1 x.2) State.reset

/-- The reset state under the conventional values of both rules. -/
def conventional (s : State) : State :=
  { s with config := { table := .tRef, auxCarry := .conventional, pairAddCarry := .conventional } }

/-- The state under the table T_DOC. -/
def underDoc (s : State) : State := { s with config := { s.config with table := .tDoc } }

/-- The next state of an outcome. -/
def nextState? (r : Result) : Option State :=
  match r with
  | .next s => some s
  | .fault _ => none
  | .refused _ => none

/-! ## Well-formedness: an ill-formed term for each check -/

theorem smoke_length_zero_refused : ({ length := 0, cycles := 4, execute := .nop } : Entry).lengthOk = false := by decide
theorem smoke_length_four_refused : ({ length := 4, cycles := 4, execute := .nop } : Entry).lengthOk = false := by decide
theorem smoke_one_cycle_refused : ({ length := 1, cycles := 1, execute := .nop } : Entry).cyclesOk = false := by decide
theorem smoke_entry_refused : ({ length := 4, cycles := 1, execute := .nop } : Entry).wellFormed = false := by decide

/-- One opcode with two entries. -/
def doubledRows : List Row :=
  [ { opcode := 0, entry := { length := 1, cycles := 4, execute := .nop }, inDoc := true },
    { opcode := 0, entry := { length := 1, cycles := 4, execute := .rlc }, inDoc := true } ]

theorem smoke_doubled_opcode_refused : opcodesDistinct doubledRows = false := by decide
theorem smoke_doubled_table_refused : tableWellFormed doubledRows = false := by decide
theorem smoke_one_cycle_table_refused :
    tableWellFormed [{ opcode := 0, entry := { length := 1, cycles := 1, execute := .nop }, inDoc := true }] = false := by
  decide
theorem smoke_inr_refused_under_doc : Instr.inrB.wellFormed (rowsOf .tDoc) = false := by decide

/-! ## Decoding: words written out from the encodings of 30_encoding.md R84 and opcode_table.json -/

theorem test_decode_nop : decodeTableWord 8 0b00000000 = some .nop := by decide
theorem test_decode_lxi : decodeTableWord 24 0b101010101111111100000001 = some (.lxiB 0xAAFF) := by decide
theorem test_decode_stax : decodeTableWord 8 0b00000010 = some .staxB := by decide
theorem test_decode_inx : decodeTableWord 8 0b00000011 = some .inxB := by decide
theorem test_decode_inr : decodeTableWord 8 0b00000100 = some .inrB := by decide
theorem test_decode_dcr : decodeTableWord 8 0b00000101 = some .dcrB := by decide
theorem test_decode_mvi : decodeTableWord 16 0b0101101000000110 = some (.mviB 0x5A) := by decide
theorem test_decode_rlc : decodeTableWord 8 0b00000111 = some .rlc := by decide
theorem test_decode_dad : decodeTableWord 8 0b00001001 = some .dadB := by decide
/-- R85: 0x08, a no-operation on 8080 silicon, has no entry here. -/
theorem test_decode_08_rejected : decode .tRef [0x08] = .error (.unimplementedOpcode 0x08) := by rfl
theorem test_decode_ff_rejected : decodeTableWord 8 0xFF = none := by decide
theorem test_decode_truncated : decode .tRef [0x01, 0xFF] = .error (.truncated 3 2) := by rfl
theorem test_encode_lxi_low_byte_first : encode (.lxiB 0xAAFF) = [0x01, 0xFF, 0xAA] := by decide

/-! ## The instructions -/

/-- W1. -/
theorem test_nop_advances_pc :
    (nextState? (step (State.reset.withFetchWord 8 0x00))).map (fun s => (s.pc, s.f, s.a, s.inflight)) =
      some (1, 0, 0, none) := by decide
/-- V6. -/
theorem test_nop_wraps_pc :
    (nextState? (step ({ State.reset with pc := 0xFFFF }.withFetchWord 8 0x00))).map (fun s => s.pc) = some 0 := by decide
/-- W2. -/
theorem test_lxi_loads_pair :
    (nextState? (step (State.reset.withFetchWord 24 0xAAFF01))).map (fun s => (s.b, s.c, s.w, s.z, s.pc)) =
      some (0xAA, 0xFF, 0xAA, 0xFF, 3) := by decide
/-- V3.1. -/
theorem test_lxi_wraps :
    (nextState? (step ({ State.reset with pc := 0xFFFE }.withFetchWord 24 0x123401))).map (fun s => (s.b, s.c, s.pc)) =
      some (0x12, 0x34, 1) := by decide
/-- V3.3. -/
theorem test_mvi_leaves_w :
    (nextState? (step (State.reset.withFetchWord 16 0x5A06))).map (fun s => (s.b, s.z, s.w, s.pc)) =
      some (0x5A, 0x5A, 0x00, 2) := by decide
/-- V3.4. -/
theorem test_mvi_wraps :
    (nextState? (step ({ State.reset with pc := 0xFFFF }.withFetchWord 16 0x5A06))).map (fun s => (s.b, s.pc)) =
      some (0x5A, 1) := by decide
/-- W3. -/
theorem test_stax_stores_at_bc :
    (nextState? (exec .staxB (regs [(.a, 0xFF), (.b, 0xAA), (.c, 0xBB)]))).map (fun s => s.mem) =
      some [(0xAABB, 0xFF)] := by decide
/-- V3.6. -/
theorem test_stax_at_top :
    (nextState? (exec .staxB (regs [(.a, 0x42), (.b, 0xFF), (.c, 0xFF)]))).map (fun s => (memRead1 0xFFFF s, s.a)) =
      some (0x42, 0x42) := by decide
/-- V4, INX B: 00FF becomes 0100, F stays D5. -/
theorem test_inx_carries_into_b :
    (nextState? (exec .inxB (regs [(.c, 0xFF), (.f, 0xD5)]))).map (fun s => (s.b, s.c, s.f)) =
      some (0x01, 0x00, 0xD5) := by decide
/-- V4, INX B: FFFF becomes 0000, F stays D5. -/
theorem test_inx_wraps :
    (nextState? (exec .inxB (regs [(.b, 0xFF), (.c, 0xFF), (.f, 0xD5)]))).map (fun s => (s.b, s.c, s.f)) =
      some (0x00, 0x00, 0xD5) := by decide
/-- V4, INR B: 0E gives 0F and F = 14 under the reference rule. -/
theorem test_inr_reference :
    (nextState? (exec .inrB (regs [(.b, 0x0E)]))).map (fun s => (s.b, s.f)) = some (0x0F, 0x14) := by decide
/-- V4, INR B: FF with F = 01 gives 00 and F = 55 under the conventional rule. -/
theorem test_inr_conventional :
    (nextState? (exec .inrB (conventional (regs [(.b, 0xFF), (.f, 0x01)])))).map (fun s => (s.b, s.f)) =
      some (0x00, 0x55) := by decide
/-- V4, DCR B: 01 gives 00 and F = 54 under the reference rule. -/
theorem test_dcr_reference :
    (nextState? (exec .dcrB (regs [(.b, 0x01)]))).map (fun s => (s.b, s.f)) = some (0x00, 0x54) := by decide
/-- V4, DCR B: 06 gives 05 and F = 14 under the conventional rule. -/
theorem test_dcr_conventional :
    (nextState? (exec .dcrB (conventional (regs [(.b, 0x06)])))).map (fun s => (s.b, s.f)) = some (0x05, 0x14) := by
  decide
/-- V4, DAD B: 1000 + 0234 with F = D4 gives 1234 and F = D5 under the reference rule. -/
theorem test_dad_reference :
    (nextState? (exec .dadB (regs [(.h, 0x10), (.b, 0x02), (.c, 0x34), (.f, 0xD4)]))).map (fun s => (s.h, s.l, s.f)) =
      some (0x12, 0x34, 0xD5) := by decide
/-- V4, DAD B: the same under the conventional rule leaves F = D4. -/
theorem test_dad_conventional :
    (nextState? (exec .dadB (conventional (regs [(.h, 0x10), (.b, 0x02), (.c, 0x34), (.f, 0xD4)])))).map
      (fun s => (s.h, s.l, s.f)) = some (0x12, 0x34, 0xD4) := by decide
/-- W4. -/
theorem test_rlc_sets_carry :
    (nextState? (exec .rlc (regs [(.a, 0b10101010)]))).map (fun s => (s.a, s.f)) = some (0b01010101, 0x01) := by decide
/-- V5: 01 with F = D5 gives 02 and F = D4. -/
theorem test_rlc_clears_carry_only :
    (nextState? (exec .rlc (regs [(.a, 0x01), (.f, 0xD5)]))).map (fun s => (s.a, s.f)) = some (0x02, 0xD4) := by decide

/-! ## The state machine -/

/-- V1.1, after tick 1: staged and latched, nothing executed. -/
theorem test_fetch_tick_stages :
    (nextState? (step (at_ 0 [0x01, 0xFF, 0xAA]))).map (fun s => (s.pc, s.z, s.w, s.b, s.c, s.ticksLeft)) =
      some (3, 0xFF, 0xAA, 0, 0, 9) := by decide
/-- V1.5, tick 1: the fault, with nothing staged. -/
theorem test_fault_tick :
    (match step (at_ 0 [0xFF, 0x12, 0x34]) with
      | .fault (.unimplementedOpcode info s) => some (info.opcode, info.addr, s.pc, s.w, s.z)
      | _ => none) = some (0xFF, 0x0000, 0x0001, 0x00, 0x00) := by decide
/-- V1.7: 0x04 faults under T_DOC. -/
theorem test_table_choice :
    (match step (underDoc (at_ 0 [0x04])) with
      | .fault (.unimplementedOpcode info s) => some (info.opcode, info.addr, s.pc, s.b)
      | _ => none) = some (0x04, 0x0000, 0x0001, 0x00) := by decide
/-- A table word without an entry is placed at PC, and the next step raises its fault there (W6). -/
theorem test_with_fetch_word_fault :
    (match step (State.reset.withFetchWord 8 0xFF) with
      | .fault (.unimplementedOpcode info _) => some (info.opcode, info.addr)
      | _ => none) = some (0xFF, 0x0000) := by decide

/-! ## Witnesses: a state and operands that meet the hypotheses of each statement -/

/-- LXI B,1234 in flight, three ticks done, fetched from 0x0000. -/
def countingLxi : State :=
  { at_ 0 [0x01, 0x34, 0x12] with
    pc := 3
    w := 0x12
    z := 0x34
    inflight := some { opcode := 0x01, length := 3, cycles := 10, execute := .lxiB, elapsed := 3 } }

/-- STAX B in flight, one tick short of its execute tick, with A = 0x77 and BC = 0x1000. -/
def lastTickStax : State :=
  { at_ 0 [0x02] with
    pc := 1
    a := 0x77
    b := 0x10
    inflight := some { opcode := 0x02, length := 1, cycles := 7, execute := .staxB, elapsed := 6 } }

/-- A Halted core: 0xFF read at 0x0000. -/
def haltedFF : State := { at_ 0 [0xFF] with pc := 1, halted := some { opcode := 0xFF, addr := 0 } }

theorem witness_idle_without_entry :
    (at_ 0xFFFF [0xFF]).Idle ∧
      lookup (at_ 0xFFFF [0xFF]).config.table (memRead1 (at_ 0xFFFF [0xFF]).pc (at_ 0xFFFF [0xFF])) = none := by decide
theorem witness_illegal_opcodes :
    lookup .tRef 0x08 = none ∧ lookup .tRef 0x0A = none ∧ lookup .tRef 0xFF = none ∧ lookup .tRef 0x09 ≠ none ∧
      lookup .tDoc 0x04 = none ∧ lookup .tDoc 0x06 = none ∧ lookup .tDoc 0x08 = none ∧ lookup .tDoc 0x07 ≠ none := by decide
theorem witness_well_formed_under_both :
    (Instr.lxiB 0xFFFF).wellFormed (rowsOf .tRef) = true ∧ (Instr.lxiB 0xFFFF).wellFormed (rowsOf .tDoc) = true ∧
      (Instr.mviB 0x00).wellFormed (rowsOf .tRef) = true := by decide
theorem witness_decode_with_rest :
    decode .tRef [0x06, 0xFF, 0x00] = .ok (.mviB 0xFF, [0x00]) ∧ decode .tDoc [0x01, 0x00, 0x80] = .ok (.lxiB 0x8000, []) := by
  exact ⟨rfl, rfl⟩
theorem witness_decode_rejections :
    decode .tRef [0x08] = .error (.unimplementedOpcode 0x08) ∧ decode .tDoc [0x06, 0x00] = .error (.unimplementedOpcode 0x06) ∧
      decode .tRef [] = .error (.truncated 1 0) ∧ decode .tRef [0x06] = .error (.truncated 2 1) ∧
      decode .tRef [0x01, 0x00] = .error (.truncated 3 2) := by exact ⟨rfl, rfl, rfl, rfl, rfl⟩
theorem witness_table_entry : lookup .tRef 0x06 = some { length := 2, cycles := 7, execute := .mviB } := by decide
/-- `wf` and two addresses that differ, the second where a word access wraps. -/
theorem witness_memory_addresses :
    (at_ 0xFFFF [0x01, 0x34, 0x12]).mem.wf = true ∧ (0x0000 : Word) ≠ 0xFFFF ∧ (0xFFFF : Word) + 1 = 0x0000 ∧
      (0x8000 : Word) ≠ 0xFFFF ∧ (0x8000 : Word) ≠ 0xFFFF + 1 := by decide
theorem witness_canonical_memories :
    Memory.wf [(0, 0x12), (65535, 0x34)] = true ∧ Memory.wf (Memory.write [(65535, 0x34)] 0 0x12) = true ∧
      Memory.write [(65535, 0x34)] 0 0x12 = [(0, 0x12), (65535, 0x34)] := by decide
theorem witness_registers_apart : Reg8.d ≠ Pair.bc.high ∧ Reg8.d ≠ Pair.bc.low ∧ Reg8.d ≠ Reg8.b := by decide
theorem witness_flag_bits_apart : 7 < 8 ∧ 7 ≠ Flag.cy.pos ∧ 0 < 8 ∧ 0 ≠ Flag.s.pos := by decide
theorem witness_nop_at_top : (at_ 0xFFFF [0x00]).Idle ∧ memRead1 0xFFFF (at_ 0xFFFF [0x00]) = 0x00 := by decide
theorem witness_nops_everywhere : State.reset.Idle ∧ State.reset.mem = [] := by decide
theorem witness_lxi_wraps :
    (at_ 0xFFFE [0x01, 0x34, 0x12]).Idle ∧ memRead1 0xFFFE (at_ 0xFFFE [0x01, 0x34, 0x12]) = 0x01 := by decide
theorem witness_mvi_wraps :
    (at_ 0xFFFF [0x06, 0x5A]).Idle ∧ (at_ 0xFFFF [0x06, 0x5A]).config.table = .tRef ∧
      memRead1 0xFFFF (at_ 0xFFFF [0x06, 0x5A]) = 0x06 := by decide
theorem witness_stax_at_top :
    (at_ 0xFFFF [0x02]).mem.wf = true ∧ (at_ 0xFFFF [0x02]).Idle ∧ memRead1 0xFFFF (at_ 0xFFFF [0x02]) = 0x02 ∧
      storeAddress .staxB (at_ 0xFFFF [0x02]) = some 0x0000 ∧ (0xFFFF : Word) ≠ 0x0000 := by decide
theorem witness_inx : (at_ 0xFFFF [0x03]).Idle ∧ memRead1 0xFFFF (at_ 0xFFFF [0x03]) = 0x03 := by decide
theorem witness_inr :
    (at_ 0xFFFF [0x04]).Idle ∧ (at_ 0xFFFF [0x04]).config.table = .tRef ∧ memRead1 0xFFFF (at_ 0xFFFF [0x04]) = 0x04 := by decide
theorem witness_dcr :
    (at_ 0xFFFF [0x05]).Idle ∧ (at_ 0xFFFF [0x05]).config.table = .tRef ∧ memRead1 0xFFFF (at_ 0xFFFF [0x05]) = 0x05 := by decide
theorem witness_dad :
    (at_ 0xFFFF [0x09]).Idle ∧ (at_ 0xFFFF [0x09]).config.table = .tRef ∧ memRead1 0xFFFF (at_ 0xFFFF [0x09]) = 0x09 := by decide
theorem witness_rlc : (at_ 0xFFFF [0x07]).Idle ∧ memRead1 0xFFFF (at_ 0xFFFF [0x07]) = 0x07 := by decide

/-- The frame statement: canonical memory and a next state, with a register, a flag and an address outside what is
written. -/
theorem witness_frame :
    lastTickStax.mem.wf = true ∧ (∃ t, exec .staxB lastTickStax = .next t) ∧ Reg8.b ∉ regsWritten .staxB ∧
      Flag.cy ∉ flagsWritten .inrB ∧ storeAddress .staxB lastTickStax ≠ some 0x0FFF :=
  ⟨by decide, ⟨_, rfl⟩, by decide, by decide, by decide⟩
/-- The fetch tick's three lengths, and the fetch without an entry. -/
theorem witness_fetch_lengths :
    (at_ 0 [0x07]).Idle ∧ (at_ 0 [0x07]).nextEntry = some { length := 1, cycles := 4, execute := .rlc } ∧
      (at_ 0 [0x06]).nextEntry = some { length := 2, cycles := 7, execute := .mviB } ∧
      (at_ 0 [0x01]).nextEntry = some { length := 3, cycles := 10, execute := .lxiB } ∧
      (at_ 0 [0x08]).nextEntry = none := by decide
/-- A counting tick that waits and one that executes. -/
theorem witness_counting :
    countingLxi.Counting { opcode := 0x01, length := 3, cycles := 10, execute := .lxiB, elapsed := 3 } ∧ 3 + 1 ≠ 10 ∧
      lastTickStax.Counting { opcode := 0x02, length := 1, cycles := 7, execute := .staxB, elapsed := 6 } ∧ 6 + 1 = 7 := by decide
theorem witness_step_runs_decoded :
    (at_ 0xFFFE [0x01, 0x34, 0x12]).Idle ∧
      decode .tRef ((at_ 0xFFFE [0x01, 0x34, 0x12]).bytesAtPc 3) = .ok (.lxiB 0x1234, []) := by exact ⟨by decide, rfl⟩
/-- The timing law's bounds: the first and the last tick before the execute tick. -/
theorem witness_timing_bounds :
    (at_ 0 [0x00]).nextEntry = some { length := 1, cycles := 4, execute := .nop } ∧ 1 ≤ 1 ∧ 1 < 4 ∧ 1 ≤ 3 ∧ 3 < 4 := by decide
theorem witness_sequence : State.reset.Idle ∧ ∃ t, instructionSteps 2 State.reset = .next t := ⟨by decide, ⟨_, rfl⟩⟩
theorem witness_steps_answer :
    (∃ t, step countingLxi = .next t) ∧ ¬ countingLxi.Idle ∧ (∃ t, step lastTickStax = .next t) ∧
      (∃ t, step (at_ 0 [0x06, 0x5A]) = .next t) :=
  ⟨⟨_, rfl⟩, by decide, ⟨_, rfl⟩, ⟨_, rfl⟩⟩
theorem witness_fault_and_halted :
    step (at_ 0 [0xFF]) = .fault (.unimplementedOpcode { opcode := 0xFF, addr := 0 } haltedFF) ∧
      haltedFF.halted = some { opcode := 0xFF, addr := 0 } := ⟨rfl, rfl⟩
/-- A step that changes a byte of memory: the byte at 0x1000 goes from 0x00 to A. -/
theorem witness_memory_changes :
    lastTickStax.mem.wf = true ∧
      ∃ t, step lastTickStax = .next t ∧ memRead1 0x1000 t ≠ memRead1 0x1000 lastTickStax :=
  ⟨by decide, _, rfl, by decide⟩
/-- Two states that differ in D, E, SP and the unused bits of F, and there only. -/
theorem witness_unaccessed_differ :
    State.eraseUnaccessed { countingLxi with d := 0xFF, e := 0x01, sp := 0xFFFF, f := 0x2A } =
        countingLxi.eraseUnaccessed ∧
      { countingLxi with d := 0xFF, e := 0x01, sp := 0xFFFF, f := 0x2A } ≠ countingLxi := by decide
/-- A Counting state that meets the invariant, and steps. -/
theorem witness_invariant_counting : countingLxi.Inv ∧ ∃ t, step countingLxi = .next t := by
  refine ⟨⟨by decide, ?_, fun info h => by cases h⟩, _, rfl⟩
  intro l h
  cases h
  decide
/-- An Idle state that meets the invariant and faults, and the Halted state it leads to. -/
theorem witness_invariant_fault :
    (at_ 0 [0xFF]).Inv ∧ step (at_ 0 [0xFF]) = .fault (.unimplementedOpcode { opcode := 0xFF, addr := 0 } haltedFF) :=
  ⟨⟨by decide, fun _ h => (nomatch h), fun _ h => (nomatch h)⟩, rfl⟩
theorem witness_canonical_image : Memory.wf [(0, 0x07), (65535, 0x01)] = true := by decide
/-- STAX B at 0x0000 with BC = 0x0001 and the given A: onto the next instruction. -/
def staxOntoNext (a : Byte) : State := ((at_ 0 [0x02, 0xFF]).setReg .c 0x01).setReg .a a

/-- The byte stored has an entry (V3.7). -/
theorem witness_store_to_next_with_entry :
    (staxOntoNext 0x00).mem.wf = true ∧ (staxOntoNext 0x00).Idle ∧
      memRead1 (staxOntoNext 0x00).pc (staxOntoNext 0x00) = 0x02 ∧
      (staxOntoNext 0x00).pair .bc = (staxOntoNext 0x00).pc + 1 ∧
      lookup (staxOntoNext 0x00).config.table (staxOntoNext 0x00).a =
        some { length := 1, cycles := 4, execute := .nop } := by decide
/-- The byte stored has no entry. -/
theorem witness_store_to_next_without_entry :
    (staxOntoNext 0x08).mem.wf = true ∧ (staxOntoNext 0x08).Idle ∧
      memRead1 (staxOntoNext 0x08).pc (staxOntoNext 0x08) = 0x02 ∧
      (staxOntoNext 0x08).pair .bc = (staxOntoNext 0x08).pc + 1 ∧
      lookup (staxOntoNext 0x08).config.table (staxOntoNext 0x08).a = none := by decide
theorem witness_inspection : countingLxi.mem.wf = true ∧ (∀ q, inspect q countingLxi = inspect q countingLxi) :=
  ⟨by decide, fun _ => rfl⟩
theorem witness_fetch_word :
    State.reset.Idle ∧
      (memWriteBytes State.reset.pc (tableBytes 24 0x123401) State.reset).nextEntry =
        some { length := 3, cycles := 10, execute := .lxiB } ∧
      (memWriteBytes State.reset.pc (tableBytes 8 0xFF) State.reset).nextEntry = none := by decide

end Sys2Proof.Tests
end

/-! SUPPORT. Registers and pairs as numbers, and what an instruction's cycles leave of an Idle state. -/

namespace Sys2Proof.Machine

/-! ## Pairs and their byte registers -/

theorem Pair.high_ne_low (p : Pair) : p.high ≠ p.low := by cases p <;> decide

/-- The value of a pair (R23, R24). -/
theorem State.pair_toNat (p : Pair) (s : State) :
    (s.pair p).toNat = 256 * (s.reg p.high).toNat + (s.reg p.low).toNat := joinBytes_toNat _ _

@[simp] theorem State.reg_setPair_high (p : Pair) (v : Word) (s : State) :
    (s.setPair p v).reg p.high = hiByte v := by simp [State.setPair, p.high_ne_low]

@[simp] theorem State.reg_setPair_low (p : Pair) (v : Word) (s : State) :
    (s.setPair p v).reg p.low = loByte v := by simp [State.setPair]

theorem State.reg_setPair_of_ne {p : Pair} {r : Reg8} (hh : r ≠ p.high) (hl : r ≠ p.low) (v : Word) (s : State) :
    (s.setPair p v).reg r = s.reg r := by simp [State.setPair, hh, hl]

@[simp] theorem State.pair_setPair (p : Pair) (v : Word) (s : State) : (s.setPair p v).pair p = v := by
  simp [State.pair]

/-- The unreduced sum of the pair addition, in the four byte registers (R163). -/
theorem dadSum_eq (s : State) :
    dadSum s = (256 * s.h.toNat + s.l.toNat) + (256 * s.b.toNat + s.c.toNat) := by
  rw [dadSum, s.pair_toNat .hl, s.pair_toNat .bc]; rfl

/-! ## One flag bit, one byte of memory -/

/-- A flag write leaves the other seven bits of F (R28). -/
theorem State.f_bit_setFlag_of_ne {g : Flag} {k : Nat} (hk : k < 8) (hg : k ≠ g.pos) (x : Bool) (s : State) :
    (s.setFlag g x).f.getLsbD k = s.f.getLsbD k := by
  rw [State.setFlag_f, withFlag_bit g x s.f k hk, if_neg hg]

theorem memRead1_memWrite1_same {s : State} (hs : s.mem.wf = true) (addr : Word) (v : Byte) :
    memRead1 addr (memWrite1 addr v s) = v := by
  rw [memRead1_memWrite1 hs, if_pos rfl]

theorem memRead1_memWrite1_of_ne {s : State} {addr q : Word} (hs : s.mem.wf = true) (hq : q ≠ addr) (v : Byte) :
    memRead1 q (memWrite1 addr v s) = memRead1 q s := by
  rw [memRead1_memWrite1 hs, if_neg hq]

/-! ## Entries of the tables (R84) -/

theorem lookup_lxiB (t : InstrTable) : lookup t 0x01 = some { length := 3, cycles := 10, execute := .lxiB } := by
  cases t <;> rfl

theorem lookup_staxB (t : InstrTable) : lookup t 0x02 = some { length := 1, cycles := 7, execute := .staxB } := by
  cases t <;> rfl

theorem lookup_inxB (t : InstrTable) : lookup t 0x03 = some { length := 1, cycles := 5, execute := .inxB } := by
  cases t <;> rfl

theorem lookup_dadB : lookup .tRef 0x09 = some { length := 1, cycles := 10, execute := .dadB } := rfl

/-! ## The ticks of one instruction -/

/-- The entry at PC, from the opcode byte there. -/
theorem State.nextEntry_of_opcode {s : State} {op : Byte} {e : Entry} (hop : memRead1 s.pc s = op)
    (he : lookup s.config.table op = some e) : s.nextEntry = some e := by
  rw [State.nextEntry, hop, he]

/-- From Idle, an entry's cycles end in what its routine leaves of the fetched state, Idle again (R104, R105, R107). -/
theorem ticks_cycles {s t : State} {e : Entry} (hs : s.Idle) (he : s.nextEntry = some e)
    (ht : exec (e.execute.instr (s.afterFetch e).z (s.afterFetch e).w) (s.afterFetch e) = .next t) :
    ticks e.cycles s = .next t.discard := by
  obtain ⟨-, -, hcycles⟩ := lookup_bounds he
  have hsplit : e.cycles = (e.cycles - 1) + 1 := by omega
  rw [hsplit, ticks_succ _ (tick_fetch hs he)]
  exact ticks_finish (l := ⟨memRead1 s.pc s, e.length, e.cycles, e.execute, 1⟩) ⟨hs.1, rfl⟩ (by simp; omega) ht

/-- An execute routine neither reads nor writes PC or the in-flight latch (R83 (a), R105). -/
theorem exec_any_pc_latch {i : Instr} {s t : State} (h : exec i s = .next t) (p : Word) (o : Option InFlight) :
    exec i { s with pc := p, inflight := o } = .next { t with pc := p, inflight := o } := by
  cases i <;> cases h <;> rfl

/-- The fetch tick of a one-byte instruction stages nothing (R104). -/
theorem State.afterFetch_one_byte {e : Entry} (hlen : e.length = 1) (s : State) :
    s.afterFetch e = { s with pc := s.pc + 1, inflight := (s.afterFetch e).inflight } := by
  simp [State.afterFetch, hlen]

/-- From Idle, the cycles of a one-byte instruction without operand leave what its routine does, and PC one further. -/
theorem ticks_one_byte {s t : State} {e : Entry} {i : Instr} (hs : s.Idle) (he : s.nextEntry = some e)
    (hlen : e.length = 1) (hi : ∀ z w, e.execute.instr z w = i) (ht : exec i s = .next t) :
    ticks e.cycles s = .next { t with pc := s.pc + 1 } := by
  have hlatch : t.inflight = none := (exec_keeps ht).inflight.trans hs.2
  have hexec := exec_any_pc_latch ht (s.pc + 1) (s.afterFetch e).inflight
  rw [← State.afterFetch_one_byte hlen] at hexec
  rw [ticks_cycles hs he (by rw [hi]; exact hexec)]
  simp only [State.discard, ← hlatch]

theorem State.latchedInstr_eq_staxB {l : InFlight} {s : State} : s.latchedInstr l = .staxB ↔ l.execute = .staxB := by
  unfold State.latchedInstr
  cases l.execute <;> simp [Routine.instr]

/-- A tick that changes memory is an execute tick of STAX B, and writes A at BC (R56). -/
theorem tick_changes_mem {s t : State} (h : tick s = .next t) (hm : t.mem ≠ s.mem) :
    ∃ l, s.Counting l ∧ l.execute = .staxB ∧ l.elapsed + 1 = l.cycles ∧
      t.mem = (memWrite1 (s.pair .bc) s.a s).mem := by
  obtain ⟨e, -, -, rfl⟩ | ⟨l, -, -, rfl⟩ | ⟨l, u, hl, hc, hu, rfl⟩ := tick_next_cases h
  · exact absurd rfl hm
  · exact absurd rfl hm
  · have hmem := exec_mem hu
    split at hmem
    · next hi => exact ⟨l, hl, State.latchedInstr_eq_staxB.mp hi, hc, hmem⟩
    · exact absurd hmem hm

/-! ## The statements of the state, 10_state.md -/

/-- Settles O9: a pair is its two byte registers, joined on a read and split on a write. -/
theorem pairAndByteRegistersAgree : Obligations.PairAndByteRegistersAgree := by
  refine ⟨State.pair_toNat, fun p v s => ?_, fun r v s => ?_⟩
  · refine ⟨?_, ?_, State.pair_setPair p v s, fun r hh hl => State.reg_setPair_of_ne hh hl v s, ?_⟩
    · rw [State.reg_setPair_high, hiByte_toNat]
    · rw [State.reg_setPair_low, loByte_toNat]
    · simp
  · exact ⟨by simp, fun q hq => by simp [hq], by simp⟩

/-- Settles O10: a flag write is `withFlag` on F, which moves the flag's own bit alone. -/
theorem flagWritesTouchOneBit : Obligations.FlagWritesTouchOneBit := by
  refine ⟨fun s => ⟨rfl, rfl, rfl, rfl, rfl⟩, fun g x s => ⟨?_, fun k hk hg => ?_, rfl⟩⟩
  · rw [State.flag_setFlag, if_pos rfl]
  · exact State.f_bit_setFlag_of_ne hk hg x s

/-- Settles O21: the routine splits d16 over B and C; on the tick the latches hold the two operand bytes. -/
theorem lxiBLoadsImmediatePair : Obligations.LxiBLoadsImmediatePair := by
  refine ⟨lookup_lxiB, fun d16 s => ⟨_, rfl, hiByte_toNat d16, loByte_toNat d16, rfl, fun q => rfl⟩, fun s hs hop => ?_⟩
  rw [ticks_cycles hs (State.nextEntry_of_opcode hop (lookup_lxiB _)) rfl]
  obtain ⟨-, hidle⟩ := hs
  simp [State.discard, State.setPair, State.setReg, State.afterFetch, Pair.high, Pair.low, hidle]

/-- Settles O23: the routine is one byte write at BC, and a write changes one cell. -/
theorem staxBStoresAccumulatorAtBc : Obligations.StaxBStoresAccumulatorAtBc := by
  refine ⟨lookup_staxB, fun s hwf => ⟨memWrite1 (s.pair .bc) s.a s, rfl, ?_, rfl, rfl, fun hs hop => ?_⟩⟩
  · rintro _ ⟨⟩
    exact ⟨s.pair_toNat .bc, memRead1_memWrite1_same hwf _ _, fun q hq => memRead1_memWrite1_of_ne hwf hq _⟩
  · exact ticks_one_byte hs (State.nextEntry_of_opcode hop (lookup_staxB _)) rfl (fun _ _ => rfl) rfl

/-- Settles O24: BC reads as the incremented pair, and the pair write touches B and C alone. -/
theorem inxBIncrementsPair : Obligations.InxBIncrementsPair := by
  refine ⟨lookup_inxB, fun s => ⟨s.setPair .bc (s.pair .bc + 1), rfl, ?_, rfl, fun q => rfl, fun hs hop => ?_⟩⟩
  · calc
      _ = ((s.setPair .bc (s.pair .bc + 1)).pair .bc).toNat := (State.pair_toNat .bc _).symm
      _ = ((s.pair .bc).toNat + 1) % 65536 := by rw [State.pair_setPair, BitVec.toNat_add]; rfl
      _ = _ := by rw [s.pair_toNat .bc]; rfl
  · exact ticks_one_byte hs (State.nextEntry_of_opcode hop (lookup_inxB _)) rfl (fun _ _ => rfl) rfl

/-- Settles O27: HL reads as the sum modulo 2^16, and the flag write after it moves CY alone. -/
theorem dadBAddsPairs : Obligations.DadBAddsPairs := by
  refine ⟨lookup_dadB, rfl, fun s => ?_⟩
  rw [← dadSum_eq]
  refine ⟨_, rfl, ?_, ?_, fun k h1 h8 => ?_, rfl, fun q => rfl, fun hs ht hop => ?_⟩
  · calc
      _ = ((s.setPair .hl (BitVec.ofNat 16 (dadSum s))).pair .hl).toNat := (State.pair_toNat .hl _).symm
      _ = dadSum s % 65536 := by rw [State.pair_setPair, BitVec.toNat_ofNat]
  · rw [State.flag_setFlag, if_pos rfl]
  · exact State.f_bit_setFlag_of_ne (g := .cy) h8 (Nat.ne_of_gt h1) _ _
  · exact ticks_one_byte hs (State.nextEntry_of_opcode hop (ht ▸ lookup_dadB)) rfl (fun _ _ => rfl) rfl

/-- Settles O39: only an execute tick of STAX B changes memory, by one byte write at BC. -/
theorem onlyStaxBChangesMemory : Obligations.OnlyStaxBChangesMemory := by
  intro s t q hwf hstep hq
  have hm : t.mem ≠ s.mem := fun hm => hq (memRead1_congr hm q)
  obtain ⟨l, hl, hstax, hlast, hmem⟩ := tick_changes_mem hstep hm
  have hwrite : memRead1 q t = memRead1 q (memWrite1 (s.pair .bc) s.a s) := memRead1_congr hmem q
  have hbc : q = s.pair .bc := by
    by_contra hne
    exact hq (hwrite.trans (memRead1_memWrite1_of_ne hwf hne s.a))
  subst hbc
  exact ⟨l, hl, hstax, hlast, s.pair_toNat .bc, hwrite.trans (memRead1_memWrite1_same hwf _ _)⟩

end Sys2Proof.Machine

namespace Sys2Proof.Machine

/-! ## The statements of memory, 20_memory.md -/

/-- Settles O16: on canonical memory a byte write is read back at its own address alone, and it updates `mem` only. -/
theorem byteWriteChangesOneCell : Obligations.ByteWriteChangesOneCell := by
  intro s addr v hwf
  exact ⟨memRead1_memWrite1_same hwf addr v, fun q hq => memRead1_memWrite1_of_ne hwf hq v, rfl⟩

end Sys2Proof.Machine

namespace Sys2Proof.Machine

/-! ## The statements of the state machine, 40_tick_state_machine.md -/

/-- Off Idle a tick waits or executes, and neither moves PC (R83 (a), R105, R108). -/
theorem tick_pc_of_not_idle {s t : State} (hs : ¬ s.Idle) (h : tick s = .next t) : t.pc = s.pc := by
  obtain ⟨e, hidle, -, -⟩ | ⟨l, -, -, rfl⟩ | ⟨l, u, -, -, hu, rfl⟩ := tick_next_cases h
  · exact absurd hidle hs
  · exact State.setElapsed_pc s l _
  · exact (State.discard_pc u).trans (exec_keeps hu).pc

/-- Settles O30: an entry leads to `State.afterFetch`; without one the fault is raised with PC advanced by one. -/
theorem fetchTickStagesAndLatches : Obligations.FetchTickStagesAndLatches := by
  intro s hs
  refine ⟨fun e he => ?_, fun hnone => ?_⟩
  · exact tick_fetch hs he
  · exact ⟨{ opcode := memRead1 s.pc s, addr := s.pc }, tick_no_entry hs hnone⟩

/-- Settles O31: a counting tick is `countingTick`; its executing branch answers, since every routine does. -/
theorem countingTickWaitsOrExecutes : Obligations.CountingTickWaitsOrExecutes := by
  intro s l hs
  refine ⟨fun hwait => ?_, fun hlast => ?_⟩
  · exact (tick_counting hs).trans (countingTick_wait hwait)
  · obtain ⟨t, ht⟩ := exec_answers (s.latchedInstr l) s
    exact ⟨t, ht, (tick_counting hs).trans (countingTick_execute hlast ht)⟩

/-- Settles O34: off Idle no tick moves PC; from Idle the fetch leaves PC past the instruction. -/
theorem pcMovesOnlyOnFetchTicks : Obligations.PcMovesOnlyOnFetchTicks := by
  intro s t hstep
  refine ⟨fun hs => tick_pc_of_not_idle hs hstep, fun e hs he => ?_⟩
  have hfetch : Host.Outcome.next (s.afterFetch e) = .next t := (tick_fetch hs he).symm.trans hstep
  cases hfetch
  exact State.afterFetch_pc s e

end Sys2Proof.Machine

namespace Sys2Proof.Machine

/-! ## The flag unit's functions on a value's bits -/

/-- Bits of F outside the three flags of R129 are as they were. -/
theorem State.f_bit_setSZP_of_ne {k : Nat} (hk : k < 8) (hs : k ≠ Flag.s.pos) (hz : k ≠ Flag.z.pos)
    (hp : k ≠ Flag.p.pos) (v : Byte) (s : State) : (s.setSZP v).f.getLsbD k = s.f.getLsbD k := by
  rw [State.setSZP, State.f_bit_setFlag_of_ne hk hp, State.f_bit_setFlag_of_ne hk hz, State.f_bit_setFlag_of_ne hk hs]

/-- Bit 7 of a byte is the half of its range it lies in (R121, R127). -/
theorem testBit_seven_iff (v : Byte) : v.toNat.testBit 7 = true ↔ 128 ≤ v.toNat := by
  have hv : v.toNat < 256 := v.isLt
  rw [Nat.testBit_eq_decide_div_mod_eq, decide_eq_true_eq]
  omega

/-- The mask of R127 picks out bit 7. -/
theorem carry_shl (n : Nat) : carry n .shl = n.testBit 7 := by
  have hmask : n &&& 0x80 = (n.testBit 7).toNat * 2 ^ 7 := Nat.and_two_pow n 7
  rw [carry, hmask]
  cases n.testBit 7 <;> rfl

/-- Sign and left-shift carry are the same test, of a byte and of its value (R121, R127). -/
theorem isSigned_eq_carry_shl (v : Byte) : isSigned v = carry v.toNat .shl := by
  rw [isSigned, carry, Bool.eq_iff_iff, bne_iff_ne, bne_iff_ne, ne_eq, ← BitVec.toNat_inj]
  rfl

theorem carry_shl_iff (v : Byte) : carry v.toNat .shl = true ↔ 128 ≤ v.toNat := by
  rw [carry_shl, testBit_seven_iff]

/-- The number of 1 bits, counted on the byte's value (R8). -/
theorem popcount_eq_countP (v : Byte) : popcount v = (List.range 8).countP (fun k => v.toNat.testBit k) :=
  List.countP_eq_length_filter.symm

/-! ## The statements of the flag unit, 41_flag_unit.md -/

/-- Settles O11: three flag writes at three different bits of F; a flag read sees the write of its own flag. -/
theorem setSZPWritesThreeFlags : Obligations.SetSZPWritesThreeFlags := by
  intro v s
  refine ⟨?_, ?_, ?_, fun k hk => ?_, rfl⟩
  · rw [State.setSZP, State.flag_setFlag, if_neg (by decide), State.flag_setFlag, if_neg (by decide),
      State.flag_setFlag, if_pos rfl]
  · rw [State.setSZP, State.flag_setFlag, if_neg (by decide), State.flag_setFlag, if_pos rfl]
  · rw [State.setSZP, State.flag_setFlag, if_pos rfl]
  · exact State.f_bit_setSZP_of_ne (by omega) (by simp only [Flag.pos]; omega) (by simp only [Flag.pos]; omega)
      (by simp only [Flag.pos]; omega) v s

/-- Settles O12: the sign is bit 7, zero is the value 0, and parity is that of the count of 1 bits. -/
theorem resultFlagFunctions : Obligations.ResultFlagFunctions := by
  intro v
  refine ⟨?_, ?_, ?_⟩
  · rw [isSigned_eq_carry_shl, carry_shl_iff]
  · rw [isZero, beq_iff_eq, ← BitVec.toNat_inj]
    rfl
  · rw [hasEvenParity, beq_iff_eq, popcount_eq_countP]

/-- Settles O14: an addition's carry is its threshold, under the pair addition's reference rule too; a left shift's is
bit 7 of its operand. -/
theorem additionAndShiftCarry : Obligations.AdditionAndShiftCarry := by
  refine ⟨fun v => ?_, fun v => rfl, carry_shl_iff⟩
  rw [carry, decide_eq_true_eq]

end Sys2Proof.Machine

namespace Sys2Proof.Machine

/-! ## The statement of NOP, 45_nop_and_control.md -/

theorem lookup_nop (t : InstrTable) : lookup t 0x00 = some { length := 1, cycles := 4, execute := .nop } := by
  cases t <;> rfl

/-- Memory with no byte listed is filled with 0x00 (R50, R190). -/
theorem memRead1_of_mem_nil {s : State} (h : s.mem = []) (addr : Word) : memRead1 addr s = 0x00 := by
  rw [memRead1, h]; rfl

/-- Four ticks of a NOP move PC by one, modulo 2^16, and change nothing else (R190). -/
theorem ticks_nop {s : State} (hs : s.Idle) (hop : memRead1 s.pc s = 0x00) :
    ticks 4 s = .next { s with pc := s.pc + 1 } :=
  ticks_one_byte hs (State.nextEntry_of_opcode hop (lookup_nop _)) rfl (fun _ _ => rfl) rfl

/-- Memory filled with 0x00 runs as NOPs forever, PC wrapping, with no fault (R190). -/
theorem ticks_nops {s : State} (hs : s.Idle) (hmem : s.mem = []) (k : Nat) :
    ticks (4 * k) s = .next { s with pc := s.pc + BitVec.ofNat 16 k } := by
  induction k generalizing s with
  | zero => simp
  | succ k ih =>
    have hpc : s.pc + 1 + BitVec.ofNat 16 k = s.pc + BitVec.ofNat 16 (k + 1) := by
      rw [BitVec.add_assoc, Nat.add_comm k 1, BitVec.ofNat_add]
      rfl
    calc ticks (4 * (k + 1)) s
      _ = ticks (4 + 4 * k) s := by rw [Nat.mul_succ, Nat.add_comm]
      _ = ticks (4 * k) { s with pc := s.pc + 1 } := ticks_add 4 (4 * k) (ticks_nop hs (memRead1_of_mem_nil hmem _))
      _ = .next { s with pc := s.pc + 1 + BitVec.ofNat 16 k } := ih (s := { s with pc := s.pc + 1 }) hs hmem
      _ = .next { s with pc := s.pc + BitVec.ofNat 16 (k + 1) } := by rw [hpc]

/-- Settles O20: a NOP's four ticks move PC alone, so memory of NOPs stays Idle and unwritten, by induction on their
number. -/
theorem nopOnlyAdvancesPc : Obligations.NopOnlyAdvancesPc :=
  ⟨lookup_nop, fun _ => rfl, fun _ hs hop => ticks_nop hs hop, fun k _ hs hmem => ticks_nops hs hmem k⟩

end Sys2Proof.Machine

namespace Sys2Proof.Machine

/-! ## The statement of the exception, 60_exceptions.md -/

/-- A counting tick always answers a next state: it waits, or it runs a routine, and no routine stops (R105, R200). -/
theorem countingTick_answers (l : InFlight) (s : State) : ∃ t, countingTick l s = .next t := by
  by_cases hlast : l.elapsed + 1 = l.cycles
  · obtain ⟨t, ht⟩ := exec_answers (s.latchedInstr l) s
    exact ⟨t.discard, countingTick_execute hlast ht⟩
  · exact ⟨s.setElapsed l (l.elapsed + 1), countingTick_wait hlast⟩

/-- An Idle core is not Halted, so a fault of its tick is the fetch tick's, for want of an entry (R200). -/
theorem tick_faults_iff_no_entry {s : State} (hs : s.Idle) : (∃ f, tick s = .fault f) ↔ s.nextEntry = none := by
  constructor
  · rintro ⟨⟨info, point⟩, hf⟩
    obtain ⟨hhalted, -⟩ | ⟨-, hnone, -, -⟩ := tick_fault_cases hf
    · cases hs.1.symm.trans hhalted
    · exact hnone
  · exact fun hnone => ⟨_, tick_no_entry hs hnone⟩

/-- A tick is answered by a next state or by a fault, never by a third outcome (R9). -/
theorem tick_ne_refused (s : State) (n : Refusal) : tick s ≠ .refused n := by
  intro h
  cases hh : s.halted with
  | some info => cases (tick_halted hh).symm.trans h
  | none =>
    cases hi : s.inflight with
    | none =>
      cases he : s.nextEntry with
      | none => cases (tick_no_entry ⟨hh, hi⟩ he).symm.trans h
      | some e => cases (tick_fetch ⟨hh, hi⟩ he).symm.trans h
    | some l =>
      obtain ⟨t, ht⟩ := countingTick_answers l s
      cases ((tick_counting ⟨hh, hi⟩).trans ht).symm.trans h

/-- Settles O36: from Idle the fault is that of the missing entry; every routine answers a next state, and so every
counting tick does; and a tick has no third outcome. -/
theorem faultsExactlyAtMissingEntries : Obligations.FaultsExactlyAtMissingEntries := by
  refine ⟨fun s hs => tick_faults_iff_no_entry hs, fun s l hs => ?_, exec_answers, tick_ne_refused⟩
  obtain ⟨t, ht⟩ := countingTick_answers l s
  exact ⟨t, (tick_counting hs).trans ht⟩

end Sys2Proof.Machine

/-! SUPPORT. The statements of the encoding, 30_encoding.md: what a lookup, a decoding and an encoding say of each
other. -/

namespace Sys2Proof

/-! ## Finding an entry -/

/-- An admitted instruction's bytes start with an opcode whose entry has its routine and the bytes' length (R70, R84). -/
theorem lookup_of_wellFormed {t : InstrTable} {i : Instr} (h : i.wellFormed (rowsOf t) = true) :
    ∃ op operands e, encode i = op :: operands ∧ lookup t op = some e ∧ e.execute = i.routine ∧
      e.length = operands.length + 1 := by
  cases t with
  | tRef => cases i <;> exact ⟨_, _, _, rfl, rfl, rfl, rfl⟩
  | tDoc =>
    cases i with
    | inrB | dcrB | mviB | dadB => cases h
    | nop | lxiB | staxB | inxB | rlc => exact ⟨_, _, _, rfl, rfl, rfl, rfl⟩

/-- A table admits the instructions of every entry it finds. -/
theorem wellFormed_of_lookup {t : InstrTable} {op : Byte} {e : Entry} (h : lookup t op = some e) (z w : Byte) :
    (e.execute.instr z w).wellFormed (rowsOf t) = true := by
  obtain ⟨r, hr, rfl⟩ := Option.map_eq_some_iff.mp h
  refine List.any_eq_true.mpr ⟨r, List.mem_of_find?_eq_some hr, ?_⟩
  cases r.entry.execute <;> rfl

/-- The instruction of an entry, with operand bytes z and w, is encoded by its opcode and as many of the two bytes as its
length takes (R70, R72). -/
theorem encode_instr_of_lookup {t : InstrTable} {op : Byte} {e : Entry} (h : lookup t op = some e) (z w : Byte) :
    encode (e.execute.instr z w) = [op, z, w].take e.length := by
  obtain ⟨r, hr, rfl, rfl⟩ := lookup_entry h
  fin_cases hr <;> simp [Routine.instr, encode]

/-- One row of a table: the lookup tests its opcode and goes on to the rows after it. -/
theorem lookup_row (r : Row) (rows : List Row) (op : Byte) :
    ((r :: rows).find? (fun r => r.opcode == op)).map (fun r => r.entry) =
      if op = r.opcode then some r.entry else (rows.find? (fun r => r.opcode == op)).map (fun r => r.entry) := by
  by_cases h : op = r.opcode
  · simp [h]
  · simp [h, Ne.symm h]

/-- The rows of R84 that `T_DOC` has. -/
theorem rowsOf_tDoc : rowsOf .tDoc =
    [ { opcode := 0x00, entry := { length := 1, cycles := 4,  execute := .nop },   inDoc := true },
      { opcode := 0x01, entry := { length := 3, cycles := 10, execute := .lxiB },  inDoc := true },
      { opcode := 0x02, entry := { length := 1, cycles := 7,  execute := .staxB }, inDoc := true },
      { opcode := 0x03, entry := { length := 1, cycles := 5,  execute := .inxB },  inDoc := true },
      { opcode := 0x07, entry := { length := 1, cycles := 4,  execute := .rlc },   inDoc := true } ] := rfl

theorem lookup_eq_none_iff (t : InstrTable) (op : Byte) : lookup t op = none ↔ ∀ r ∈ rowsOf t, r.opcode ≠ op := by
  simp [lookup]

/-! ## Decoding after the opcode -/

theorem decode_cons_of_lookup {t : InstrTable} {op : Byte} {e : Entry} (h : lookup t op = some e) (bytes : List Byte) :
    decode t (op :: bytes) = takeOperands e bytes := by
  simp only [decode, entryOf, h]

theorem decode_cons_of_no_entry {t : InstrTable} {op : Byte} (h : lookup t op = none) (bytes : List Byte) :
    decode t (op :: bytes) = .error (.unimplementedOpcode op) := by
  simp only [decode, entryOf, h]

/-- Too few bytes after the opcode: the decoder says so (log 23). -/
theorem takeOperands_of_short {e : Entry} (h3 : e.length ≤ 3) {bytes : List Byte} (h : bytes.length + 1 < e.length) :
    takeOperands e bytes = .error (.truncated e.length (bytes.length + 1)) := by
  match bytes with
  | [] =>
    obtain hl | hl : e.length = 2 ∨ e.length = 3 := by simp at h; omega
    all_goals simp [takeOperands, hl]
  | [z] =>
    have hl : e.length = 3 := by simp at h; omega
    simp [takeOperands, hl]
  | z :: w :: rest => simp at h; omega

/-- Enough bytes after the opcode: the entry's routine with the operand bytes its length takes, and what is left. -/
theorem takeOperands_of_enough {e : Entry} (h1 : 1 ≤ e.length) (h3 : e.length ≤ 3) {bytes : List Byte}
    (h : e.length ≤ bytes.length + 1) (op : Byte) :
    ∃ z w rest, takeOperands e bytes = .ok (e.execute.instr z w, rest) ∧
      op :: bytes = [op, z, w].take e.length ++ rest := by
  obtain hl | hl | hl : e.length = 1 ∨ e.length = 2 ∨ e.length = 3 := by omega
  · exact ⟨0, 0, bytes, by simp [takeOperands, hl], by simp [hl]⟩
  · match bytes with
    | [] => simp [hl] at h
    | z :: rest => exact ⟨z, 0, rest, by simp [takeOperands, hl], by simp [hl]⟩
  · match bytes with
    | [] | [_] => simp [hl] at h
    | z :: w :: rest => exact ⟨z, w, rest, by simp [takeOperands, hl], by simp [hl]⟩

/-- Everything the decoder can do with a byte list: nothing to read, no entry, too few bytes, or an entry's
instruction. -/
theorem decode_cases (t : InstrTable) (bytes : List Byte) :
    (bytes = [] ∧ decode t bytes = .error (.truncated 1 0)) ∨
    (∃ op rest, bytes = op :: rest ∧ lookup t op = none ∧ decode t bytes = .error (.unimplementedOpcode op)) ∨
    (∃ op rest e, bytes = op :: rest ∧ lookup t op = some e ∧ bytes.length < e.length ∧
      decode t bytes = .error (.truncated e.length bytes.length)) ∨
    (∃ op e z w rest, lookup t op = some e ∧ bytes.head? = some op ∧ e.length ≤ bytes.length ∧
      decode t bytes = .ok (e.execute.instr z w, rest) ∧ bytes = [op, z, w].take e.length ++ rest) := by
  cases bytes with
  | nil => exact .inl ⟨rfl, rfl⟩
  | cons op bytes =>
    cases he : lookup t op with
    | none => exact .inr (.inl ⟨op, bytes, rfl, he, decode_cons_of_no_entry he bytes⟩)
    | some e =>
      obtain ⟨h1, h3, -⟩ := lookup_bounds he
      rw [decode_cons_of_lookup he]
      obtain h | h := Nat.lt_or_ge (bytes.length + 1) e.length
      · exact .inr (.inr (.inl ⟨op, bytes, e, rfl, he, h, takeOperands_of_short h3 h⟩))
      · obtain ⟨z, w, rest, hok, hbytes⟩ := takeOperands_of_enough h1 h3 h op
        exact .inr (.inr (.inr ⟨op, e, z, w, rest, he, rfl, h, hok, hbytes⟩))

/-- An instruction's own operand bytes give it back, with whatever bytes follow (R57, R72). -/
theorem takeOperands_encode {e : Entry} {i : Instr} {op : Byte} {operands : List Byte} (hi : encode i = op :: operands)
    (he : e.execute = i.routine) (hl : e.length = operands.length + 1) (rest : List Byte) :
    takeOperands e (operands ++ rest) = .ok (i, rest) := by
  cases i <;> cases hi <;> simp [takeOperands, hl, he, Instr.routine, Routine.instr]

/-! ## The statements -/

/-- Settles O4: the first byte finds the instruction's own entry, whose operand bytes are the instruction's. -/
theorem decodeOfEncode : Obligations.DecodeOfEncode := by
  intro t i rest hi
  obtain ⟨op, operands, e, henc, hlook, hexec, hlen⟩ := lookup_of_wellFormed hi
  rw [henc, List.cons_append, decode_cons_of_lookup hlook, takeOperands_encode henc hexec hlen]

/-- Settles O5: of the decoder's four cases only the last accepts, and its bytes are the encoding. -/
theorem encodeOfDecode : Obligations.EncodeOfDecode := by
  intro t bytes i rest h
  obtain ⟨-, hd⟩ | ⟨op, _, -, -, hd⟩ | ⟨op, _, e, -, -, -, hd⟩ | ⟨op, e, z, w, rest', he, -, -, hd, hbytes⟩ :=
    decode_cases t bytes
  · cases hd.symm.trans h
  · cases hd.symm.trans h
  · cases hd.symm.trans h
  · cases hd.symm.trans h
    exact ⟨hbytes.trans (by rw [encode_instr_of_lookup he]), wellFormed_of_lookup he z w⟩

/-- Settles O6: the decoder's four cases exclude each other, and two of them are the rejections. -/
theorem decodeRejectsByName : Obligations.DecodeRejectsByName := by
  intro t bytes
  obtain ⟨rfl, hd⟩ | ⟨op, rest, rfl, he, hd⟩ | ⟨op, rest, e, rfl, he, hlen, hd⟩ |
    ⟨op, e, z, w, rest, he, hop, hlen, hd, -⟩ := decode_cases t bytes
  · simp [hd]
  · refine ⟨fun op' => ?_, ?_⟩
    · simp only [hd, List.head?_cons, Except.error.injEq, DecodeError.unimplementedOpcode.injEq, Option.some.injEq]
      exact ⟨fun h => ⟨h, h ▸ he⟩, fun h => h.1⟩
    · simp [hd, he]
  · refine ⟨fun op' => ?_, ?_⟩
    · simp only [hd, List.head?_cons, Except.error.injEq, reduceCtorEq, Option.some.injEq, false_iff]
      rintro ⟨rfl, hnone⟩
      cases he.symm.trans hnone
    · exact iff_of_true ⟨_, _, hd⟩ (.inr ⟨op, rest, e, rfl, he, hlen⟩)
  · refine ⟨fun op' => ?_, ?_⟩
    · simp only [hd, hop, Option.some.injEq, reduceCtorEq, false_iff]
      rintro ⟨rfl, hnone⟩
      cases he.symm.trans hnone
    · simp only [hd, reduceCtorEq, exists_false, false_iff]
      rintro (rfl | ⟨op', rest', e', rfl, he', hshort⟩)
      · cases hop
      · cases hop
        cases he.symm.trans he'
        omega

/-- Settles O1: each byte list is decoded by evaluation. -/
theorem specWordsDecode : Obligations.SpecWordsDecode :=
  ⟨rfl, rfl, rfl, rfl, rfl, rfl, rfl, rfl, rfl, rfl, rfl⟩

/-- Settles O2: a lookup tests the rows of R84 one after the other. -/
theorem tableEntriesAreTheSpecs : Obligations.TableEntriesAreTheSpecs := by
  refine ⟨fun op => ?_, fun op => ?_⟩
  · simp only [lookup, rowsOf, tableRows, lookup_row]
    rfl
  · simp only [lookup, rowsOf_tDoc, lookup_row]
    rfl

/-- Settles O7: both tables are checked by evaluation; an entry found keeps the bounds of `lookup_bounds`. -/
theorem tablesAreWellFormed : Obligations.TablesAreWellFormed := by
  refine ⟨fun t => ?_, fun t op e he => ?_⟩
  · cases t <;> decide
  · obtain ⟨h1, h3, hcycles⟩ := lookup_bounds he
    exact ⟨h1, h3, by omega⟩

/-- R85's set for the reference table: what its nine opcodes leave out. -/
theorem lookup_tRef_eq_none_iff (op : Byte) : lookup .tRef op = none ↔ op = 0x08 ∨ 0x0A ≤ op.toNat := by
  simp only [lookup_eq_none_iff, rowsOf, tableRows, List.forall_mem_cons, List.not_mem_nil, false_implies, implies_true,
    and_true]
  bv_omega

/-- R85's set for `T_DOC`. -/
theorem lookup_tDoc_eq_none_iff (op : Byte) :
    lookup .tDoc op = none ↔ op = 0x04 ∨ op = 0x05 ∨ op = 0x06 ∨ 0x08 ≤ op.toNat := by
  simp only [lookup_eq_none_iff, rowsOf_tDoc, List.forall_mem_cons,
    List.not_mem_nil, false_implies, implies_true, and_true]
  bv_omega

/-- Counting below `n + k` what holds of every number from n on. -/
theorem length_filter_range_add (p : Nat → Bool) (n k : Nat) (h : ∀ j, j < k → p (n + j) = true) :
    ((List.range (n + k)).filter p).length = ((List.range n).filter p).length + k := by
  have htail : ((List.range k).map (n + ·)).filter p = (List.range k).map (n + ·) := by
    simpa [List.filter_eq_self] using h
  rw [List.range_add, List.filter_append, htail, List.length_append, List.length_map, List.length_range]

/-- Settles O3: the opcodes left out; their number, those past the last opcode of a table and the few before; and the
fetch tick without an entry. -/
theorem illegalOpcodesFaultOnFetch : Obligations.IllegalOpcodesFaultOnFetch := by
  refine ⟨lookup_tRef_eq_none_iff, lookup_tDoc_eq_none_iff, ?_, ?_, fun s hs hnone => ⟨_, Machine.tick_no_entry hs hnone⟩⟩
  · refine length_filter_range_add _ 10 246 fun j hj => ?_
    rw [Option.isNone_iff_eq_none, lookup_tRef_eq_none_iff, BitVec.toNat_ofNat]
    omega
  · refine length_filter_range_add _ 8 248 fun j hj => ?_
    rw [Option.isNone_iff_eq_none, lookup_tDoc_eq_none_iff, BitVec.toNat_ofNat]
    omega

end Sys2Proof

/-! SUPPORT. The state no instruction accesses (R22, R29, R30, R37): running and erasing it commute. -/

namespace Sys2Proof.Machine

/-! ## Erasing D, E, SP and the unused bits of F -/

/-- The outcome with the unaccessed part of its state erased. -/
def eraseResult : Result → Result
  | .next t => .next t.eraseUnaccessed
  | .fault (.unimplementedOpcode info t) => .fault (.unimplementedOpcode info t.eraseUnaccessed)
  | .refused n => .refused n

/-- The mask keeps the bits of the five flags, so a flag write goes through it. -/
theorem withFlag_and_mask (g : Flag) (x : Bool) (v : Byte) : withFlag g x (v &&& 0xD5) = withFlag g x v &&& 0xD5 := by
  cases x with
  | false =>
    change v &&& 0xD5 &&& ~~~(1#8 <<< g.pos) = v &&& ~~~(1#8 <<< g.pos) &&& 0xD5
    rw [BitVec.and_assoc, BitVec.and_assoc, BitVec.and_comm 0xD5]
  | true =>
    have hbit : (1#8 <<< g.pos) &&& 0xD5 = 1#8 <<< g.pos := by cases g <;> rfl
    calc v &&& 0xD5 ||| 1#8 <<< g.pos
      _ = v &&& 0xD5 ||| (1#8 <<< g.pos) &&& 0xD5 := by rw [hbit]
      _ = (v ||| 1#8 <<< g.pos) &&& 0xD5 := BitVec.and_or_distrib_right.symm

theorem State.setFlag_eraseUnaccessed (g : Flag) (x : Bool) (s : State) :
    s.eraseUnaccessed.setFlag g x = (s.setFlag g x).eraseUnaccessed := by
  simp only [State.setFlag, State.setReg, State.eraseUnaccessed, withFlag_and_mask]

theorem writeCountB_eraseUnaccessed (k : AuxKind) (r : Byte) (s : State) :
    writeCountB k r s.eraseUnaccessed = (writeCountB k r s).eraseUnaccessed := by
  have hb : s.eraseUnaccessed.setReg .b r = (s.setReg .b r).eraseUnaccessed := rfl
  have hconfig : s.eraseUnaccessed.config = s.config := rfl
  simp only [writeCountB, State.setSZP, hb, hconfig, State.setFlag_eraseUnaccessed]

/-- No execute routine reads the erased part, and none carries it anywhere else (R37). -/
theorem exec_eraseUnaccessed {i : Instr} {s t : State} (h : exec i s = .next t) :
    exec i s.eraseUnaccessed = .next t.eraseUnaccessed := by
  cases i <;> cases h
  case inrB => exact congrArg _ (writeCountB_eraseUnaccessed .inc (s.b + 1) s)
  case dcrB => exact congrArg _ (writeCountB_eraseUnaccessed .dec (s.b - 1) s)
  case rlc => exact congrArg _ (State.setFlag_eraseUnaccessed .cy _ (s.setReg .a (rotateLeft1 s.a)))
  case dadB => exact congrArg _ (State.setFlag_eraseUnaccessed .cy _ (s.setPair .hl (BitVec.ofNat 16 (dadSum s))))
  all_goals rfl

/-- A tick of the erased state ends in the erased outcome, whatever the tick does. -/
theorem tick_eraseUnaccessed (s : State) : tick s.eraseUnaccessed = eraseResult (tick s) := by
  cases hh : s.halted with
  | some info => rw [tick_halted hh, tick_halted (s := s.eraseUnaccessed) hh]; rfl
  | none =>
    cases hi : s.inflight with
    | none =>
      cases he : s.nextEntry with
      | none => rw [tick_no_entry ⟨hh, hi⟩ he, tick_no_entry (s := s.eraseUnaccessed) ⟨hh, hi⟩ he]; rfl
      | some e => rw [tick_fetch ⟨hh, hi⟩ he, tick_fetch (s := s.eraseUnaccessed) ⟨hh, hi⟩ he]; rfl
    | some l =>
      rw [tick_counting ⟨hh, hi⟩, tick_counting (s := s.eraseUnaccessed) ⟨hh, hi⟩]
      by_cases hc : l.elapsed + 1 = l.cycles
      · obtain ⟨t, ht⟩ := exec_answers (s.latchedInstr l) s
        rw [countingTick_execute hc ht, countingTick_execute hc (exec_eraseUnaccessed ht)]; rfl
      · rw [countingTick_wait hc, countingTick_wait hc]; rfl

/-- Settles O41: the erased outcome of a tick is the tick of the erased state, which the two states share. -/
theorem unaccessedStateNeverInfluences : Obligations.UnaccessedStateNeverInfluences := by
  intro s s' hss
  have herase : eraseResult (tick s) = eraseResult (tick s') := by
    rw [← tick_eraseUnaccessed, ← tick_eraseUnaccessed, hss]
  simp only [step]
  refine ⟨fun t ht => ?_, fun info t ht => ?_⟩ <;> rw [ht] at herase
  · match hs' : tick s' with
    | .next t' => rw [hs'] at herase; exact ⟨t', rfl, Host.Outcome.next.inj herase⟩
    | .fault (.unimplementedOpcode _ _) | .refused _ => rw [hs'] at herase; cases herase
  · match hs' : tick s' with
    | .fault (.unimplementedOpcode _ t') =>
      rw [hs'] at herase
      obtain ⟨rfl, ht'⟩ := Fault.unimplementedOpcode.inj (Host.Outcome.fault.inj herase)
      exact ⟨t', rfl, ht'⟩
    | .next _ | .refused _ => rw [hs'] at herase; cases herase

end Sys2Proof.Machine

namespace Sys2Proof.Machine

/-! ## The invariant, 40_tick_state_machine.md §1 -/

/-- Idle asks only for canonical memory. -/
theorem State.Inv.of_idle {s : State} (hwf : s.mem.wf = true) (hs : s.Idle) : s.Inv where
  memCanonical := hwf
  latched l hl := by cases hs.2.symm.trans hl
  faulted info hinfo := by cases hs.1.symm.trans hinfo

/-- The fetch tick latches the entry with one tick done, and PC less the length is where the opcode stands. -/
theorem State.Inv.afterFetch {s : State} {e : Entry} (hwf : s.mem.wf = true) (hs : s.Idle) (he : s.nextEntry = some e) :
    (s.afterFetch e).Inv where
  memCanonical := hwf
  latched l hl := by
    cases hl
    obtain ⟨-, -, hcycles⟩ := lookup_bounds he
    have hpc : (s.afterFetch e).pc - BitVec.ofNat 16 e.length = s.pc := BitVec.add_sub_cancel _ _
    refine ⟨hs.1, he, Nat.le_refl 1, by simp; omega, ?_, fun h2 => ?_, fun h3 => ?_⟩
    · exact congrArg (memRead1 · s) hpc
    · rw [hpc, State.afterFetch_z, if_pos h2]; rfl
    · rw [hpc, State.afterFetch_w, if_pos h3]; rfl
  faulted info hinfo := by cases hs.1.symm.trans hinfo

/-- A tick that waits moves the counter alone, and not as far as the cycle count. -/
theorem State.Inv.setElapsed {s : State} {l : InFlight} (hinv : s.Inv) (hs : s.Counting l)
    (hwait : l.elapsed + 1 ≠ l.cycles) : (s.setElapsed l (l.elapsed + 1)).Inv where
  memCanonical := hinv.memCanonical
  latched l' hl' := by
    cases hl'
    obtain ⟨hhalted, hentry, h1, hlt, hbytes⟩ := hinv.latched l hs.2
    exact ⟨hhalted, hentry, by simp, by simp; omega, hbytes⟩
  faulted info hinfo := by cases hs.1.symm.trans hinfo

/-- Settles O42: a step fetches, waits or executes; each leaves a state that meets the invariant, the last an Idle one. -/
theorem everyStepKeepsTheInvariant : Obligations.EveryStepKeepsTheInvariant := by
  intro s t hinv hstep
  obtain ⟨e, hs, he, rfl⟩ | ⟨l, hs, hwait, rfl⟩ | ⟨l, u, hs, -, hu, rfl⟩ := tick_next_cases hstep
  · exact State.Inv.afterFetch hinv.memCanonical hs he
  · exact hinv.setElapsed hs hwait
  · have hwf := exec_wf hu hinv.memCanonical
    exact .of_idle (s := u.discard) hwf ⟨(exec_keeps hu).halted.trans hs.1, rfl⟩

/-- Settles O43: a Halted core's fault leaves the state itself; the fetch tick's leaves PC one past the opcode. -/
theorem faultStateMeetsTheInvariant : Obligations.FaultStateMeetsTheInvariant := by
  intro s t info hinv hstep
  obtain ⟨-, rfl⟩ | ⟨⟨-, hidle⟩, hnone, rfl, rfl⟩ := tick_fault_cases hstep
  · exact hinv
  · refine ⟨hinv.memCanonical, fun l hl => ?_, fun info hinfo => ?_⟩
    · cases hidle.symm.trans hl
    · cases hinfo
      exact ⟨hidle, hnone, rfl, rfl⟩

/-- Settles O44: construction is Idle with the image as its memory; reset is the construction with no byte listed. -/
theorem constructionMeetsTheInvariant : Obligations.ConstructionMeetsTheInvariant :=
  ⟨.of_idle reset_mem_wf ⟨rfl, rfl⟩, fun _ _ _ hwf => ⟨.of_idle hwf ⟨rfl, rfl⟩, ⟨rfl, rfl⟩, rfl⟩⟩

/-! ## The fault, 60_exceptions.md §1 -/

/-- Settles O37: the fetch tick without an entry, as `tick_no_entry` says it. -/
theorem faultLatchesOpcodeAndAddress : Obligations.FaultLatchesOpcodeAndAddress :=
  fun _ hs hnone => tick_no_entry hs hnone

/-- Settles O38: both ways to fault leave the fault latched; a latched fault is what the first tick answers. -/
theorem haltedCoreRepeatsItsFault : Obligations.HaltedCoreRepeatsItsFault := by
  refine ⟨fun s s' info hstep => ?_, fun k s info hhalted => ?_⟩
  · obtain ⟨hhalted, rfl⟩ | ⟨-, -, -, rfl⟩ := tick_fault_cases hstep
    · exact hhalted
    · rfl
  · simp only [ticks, tick_halted hhalted]

end Sys2Proof.Machine

namespace Sys2Proof.Machine

/-! ## Memory, 20_memory.md -/

theorem word_add_one_ne (addr : Word) : addr + 1 ≠ addr := by
  bv_omega

/-- A word write is read back byte by byte: the high byte at the next address, the low byte at its own (R54). -/
theorem memRead1_memWrite2 {s : State} (hs : s.mem.wf = true) (addr v q : Word) :
    memRead1 q (memWrite2 addr v s) =
      if q = addr + 1 then hiByte v else if q = addr then loByte v else memRead1 q s := by
  rw [memWrite2, memRead1_memWrite1 (memWrite1_wf hs _ _), memRead1_memWrite1 hs]

/-- Settles O17: a word access is two byte accesses, at an address and at the next, and these differ. -/
theorem wordAccessIsLittleEndian : Obligations.WordAccessIsLittleEndian := by
  refine ⟨fun s addr => ?_, fun s addr v hwf => ?_⟩
  · rw [memRead2, joinBytes_toNat, Nat.add_comm]
  · have hlow : memRead1 addr (memWrite2 addr v s) = loByte v := by
      rw [memRead1_memWrite2 hwf, if_neg (word_add_one_ne addr).symm, if_pos rfl]
    have hhigh : memRead1 (addr + 1) (memWrite2 addr v s) = hiByte v := by
      rw [memRead1_memWrite2 hwf, if_pos rfl]
    refine ⟨?_, ?_, ?_, fun q h0 h1 => ?_, rfl⟩
    · rw [hlow, loByte_toNat]
    · rw [hhigh, hiByte_toNat]
    · rw [memRead2, hlow, hhigh, joinBytes_hi_lo]
    · rw [memRead1_memWrite2 hwf, if_neg h1, if_neg h0]

/-- Any sequence of byte writes keeps the canonical form. -/
theorem foldl_memWrite1_wf {s : State} (hs : s.mem.wf = true) (writes : List (Word × Byte)) :
    (writes.foldl (fun t x => memWrite1 x.1 x.2 t) s).mem.wf = true := by
  induction writes generalizing s with
  | nil => exact hs
  | cons x writes ih => exact ih (memWrite1_wf hs x.1 x.2)

/-- Settles O18, by induction on the writes from the last one back: a read sees it, or what was before it. -/
theorem readGivesMostRecentWrite : Obligations.ReadGivesMostRecentWrite := by
  intro s writes q hwf
  induction writes using List.reverseRecOn with
  | nil => rfl
  | append_singleton writes x ih =>
    rw [List.foldl_append, List.foldl_cons, List.foldl_nil, memRead1_memWrite1 (foldl_memWrite1_wf hwf writes), ih,
      List.reverse_append, List.reverse_singleton, List.singleton_append, List.find?_cons]
    by_cases h : q = x.1
    · have hx : (x.1 == q) = true := beq_iff_eq.mpr h.symm
      rw [if_pos h, hx]
    · have hx : (x.1 == q) = false := beq_false_of_ne (Ne.symm h)
      rw [if_neg h, hx]

theorem Memory.wfFrom_cons_iff {lo a : Nat} {v : Byte} {m : Memory} :
    Memory.wfFrom lo ((a, v) :: m) = true ↔
      lo ≤ a ∧ a < 65536 ∧ v ≠ Memory.blank ∧ Memory.wfFrom (a + 1) m = true := by
  simp only [Memory.wfFrom, Bool.and_eq_true, decide_eq_true_eq, and_assoc]

theorem Memory.read_cons_same (a : Nat) (v : Byte) (m : Memory) : Memory.read ((a, v) :: m) a = v := if_pos rfl

theorem Memory.read_cons_of_ne {a b : Nat} (h : a ≠ b) (v : Byte) (m : Memory) :
    Memory.read ((a, v) :: m) b = m.read b := if_neg h

/-- The first cell of a canonical memory stands at or below every address that does not read blank. -/
theorem Memory.first_le_of_read {lo a b : Nat} {v : Byte} {m : Memory} (hm : Memory.wfFrom lo ((a, v) :: m) = true)
    (hb : Memory.read ((a, v) :: m) b ≠ Memory.blank) : a ≤ b := by
  obtain ⟨-, hcell⟩ := Memory.wfFrom_cons_iff.mp hm
  by_contra hlt
  exact hb (Memory.read_below (Memory.wfFrom_cons_iff.mpr ⟨Nat.le_refl a, hcell⟩) (Nat.lt_of_not_le hlt))

/-- No cell is blank, so a canonical memory that reads blank everywhere has no cell. -/
theorem Memory.eq_nil_of_read_blank {lo : Nat} {m : Memory} (hm : Memory.wfFrom lo m = true)
    (h : ∀ a, a < 65536 → m.read a = Memory.blank) : m = [] := by
  cases m with
  | nil => rfl
  | cons c m =>
    obtain ⟨-, ha, hv, -⟩ := Memory.wfFrom_cons_iff.mp hm
    exact absurd (h c.1 ha) (by rwa [Memory.read_cons_same])

/-- Canonical memories that read the same are the same list, by induction on its cells: their first cells stand at the
same address, being each at or below the other. -/
theorem Memory.eq_of_read_eq {lo : Nat} {m n : Memory} (hm : Memory.wfFrom lo m = true) (hn : Memory.wfFrom lo n = true)
    (h : ∀ a, a < 65536 → m.read a = n.read a) : m = n := by
  induction m generalizing lo n with
  | nil => exact (Memory.eq_nil_of_read_blank hn fun a ha => (h a ha).symm).symm
  | cons c m ih =>
    cases n with
    | nil => exact Memory.eq_nil_of_read_blank hm h
    | cons c' n =>
      obtain ⟨a, v⟩ := c
      obtain ⟨b, w⟩ := c'
      obtain ⟨-, ha, hv, hmtail⟩ := Memory.wfFrom_cons_iff.mp hm
      obtain ⟨-, hb, hw, hntail⟩ := Memory.wfFrom_cons_iff.mp hn
      have hab : a = b := Nat.le_antisymm
        (Memory.first_le_of_read hm (by rwa [h b hb, Memory.read_cons_same]))
        (Memory.first_le_of_read hn (by rwa [← h a ha, Memory.read_cons_same]))
      subst hab
      have hvw : v = w := by simpa only [Memory.read_cons_same] using h a ha
      have htail : ∀ q, q < 65536 → Memory.read m q = Memory.read n q := fun q hq => by
        by_cases hqa : a = q
        · have hlt : q < a + 1 := by omega
          rw [Memory.read_below hmtail hlt, Memory.read_below hntail hlt]
        · simpa only [Memory.read_cons_of_ne hqa] using h q hq
      rw [hvw, ih hmtail hntail htail]

/-- Settles O19: canonical memories are determined from address 0 on. -/
theorem canonicalMemoriesAreDetermined : Obligations.CanonicalMemoriesAreDetermined :=
  fun _ _ hm hn h => Memory.eq_of_read_eq hm hn h

end Sys2Proof.Machine

namespace Sys2Proof.Machine

/-! ## What an execute routine leaves, 10_state.md §5 -/

theorem writeCountB_f_bit_of_ne {j : Nat} (hj : j < 8) (h : ∀ g ∈ [Flag.s, .z, .ac, .p], j ≠ g.pos) (k : AuxKind)
    (r : Byte) (s : State) : (writeCountB k r s).f.getLsbD j = s.f.getLsbD j := by
  rw [writeCountB, State.f_bit_setFlag_of_ne hj (h .ac (by simp)),
    State.f_bit_setSZP_of_ne hj (h .s (by simp)) (h .z (by simp)) (h .p (by simp))]
  rfl

/-- A bit of F that is none of the flags an instruction writes keeps its value (R28, R37). -/
theorem exec_f_bit_of_ne {i : Instr} {s t : State} (h : exec i s = .next t) {j : Nat} (hj : j < 8)
    (hflags : ∀ g ∈ flagsWritten i, j ≠ g.pos) : t.f.getLsbD j = s.f.getLsbD j := by
  cases i <;> cases h
  case inrB | dcrB => exact writeCountB_f_bit_of_ne hj hflags _ _ s
  case rlc | dadB => exact State.f_bit_setFlag_of_ne hj (hflags .cy (List.mem_singleton_self _)) _ _
  all_goals rfl

/-- No instruction writes bit 1, 3 or 5 of F (R29). -/
theorem exec_f_unused_bit {i : Instr} {s t : State} (h : exec i s = .next t) {j : Nat}
    (hj : j = 1 ∨ j = 3 ∨ j = 5) : t.f.getLsbD j = s.f.getLsbD j := by
  refine exec_f_bit_of_ne h (by omega) fun g _ => ?_
  cases g <;> simp only [Flag.pos] <;> omega

theorem exec_flag_of_not_mem {i : Instr} {s t : State} (h : exec i s = .next t) {g : Flag} (hg : g ∉ flagsWritten i) :
    t.flag g = s.flag g :=
  exec_f_bit_of_ne h g.pos_lt fun g' hg' hpos => hg ((Flag.pos_inj g g').mp hpos ▸ hg')

theorem State.reg_setReg_of_ne {r q : Reg8} (h : r ≠ q) (v : Byte) (s : State) : (s.setReg q v).reg r = s.reg r := by
  rw [State.reg_setReg, if_neg h]

theorem State.reg_setFlag_of_ne {r : Reg8} (hf : r ≠ .f) (g : Flag) (x : Bool) (s : State) :
    (s.setFlag g x).reg r = s.reg r := State.reg_setReg_of_ne hf _ s

theorem State.reg_setPair_of_not_mem {r : Reg8} {p : Pair} (h : r ∉ [p.high, p.low]) (v : Word) (s : State) :
    (s.setPair p v).reg r = s.reg r :=
  State.reg_setPair_of_ne (List.ne_of_not_mem_cons h) (List.ne_of_not_mem_cons (List.not_mem_of_not_mem_cons h)) v s

theorem writeCountB_reg_of_ne {r : Reg8} (hf : r ≠ .f) (hb : r ≠ .b) (k : AuxKind) (v : Byte) (s : State) :
    (writeCountB k v s).reg r = s.reg r := by
  simp only [writeCountB, State.setSZP, State.reg_setFlag_of_ne hf, State.reg_setReg_of_ne hb]

/-- A register other than F outside an instruction's column of R37 keeps its value. -/
theorem exec_reg_of_not_mem {i : Instr} {s t : State} (h : exec i s = .next t) {r : Reg8} (hf : r ≠ .f)
    (hr : r ∉ regsWritten i) : t.reg r = s.reg r := by
  cases i <;> cases h
  case nop | staxB => rfl
  case lxiB | inxB => exact State.reg_setPair_of_not_mem (p := .bc) hr _ s
  case inrB | dcrB => exact writeCountB_reg_of_ne hf (List.ne_of_not_mem_cons hr) _ _ s
  case mviB => exact State.reg_setReg_of_ne (List.ne_of_not_mem_cons hr) _ s
  case rlc =>
    exact (State.reg_setFlag_of_ne hf _ _ _).trans (State.reg_setReg_of_ne (List.ne_of_not_mem_cons hr) _ s)
  case dadB => exact (State.reg_setFlag_of_ne hf _ _ _).trans (State.reg_setPair_of_not_mem (p := .hl) hr _ s)

/-- A byte of memory other than the one stored to keeps its value (R56). -/
theorem exec_memRead1_of_ne {i : Instr} {s t : State} (h : exec i s = .next t) (hwf : s.mem.wf = true) {q : Word}
    (hq : storeAddress i s ≠ some q) : memRead1 q t = memRead1 q s := by
  have hmem := exec_mem h
  split at hmem
  · next hi =>
    subst hi
    have hne : q ≠ s.pair .bc := fun hbc => hq (congrArg some hbc.symm)
    exact (memRead1_congr hmem q).trans (memRead1_memWrite1_of_ne hwf hne s.a)
  · exact memRead1_congr hmem q

/-- Settles O29: registers, flags, unused bits of F, the fields no routine touches, and memory, each by its own frame. -/
theorem execWritesOnlyWhatTheTableLists : Obligations.ExecWritesOnlyWhatTheTableLists := by
  intro i s t hwf h
  obtain ⟨hconfig, -, -, -, -, hsp, hpc, hinflight, hhalted⟩ := exec_keeps h
  exact ⟨fun r => exec_reg_of_not_mem h, fun g => exec_flag_of_not_mem h, fun k => exec_f_unused_bit h,
    hsp, hpc, hinflight, hhalted, hconfig, fun q => exec_memRead1_of_ne h hwf⟩

/-- Settles O8: every routine answers, and leaves all of `ExecKeeps` alone. -/
theorem executeRoutinesNeverMovePc : Obligations.ExecuteRoutinesNeverMovePc := by
  intro i s
  obtain ⟨t, ht⟩ := exec_answers i s
  have hk := exec_keeps ht
  exact ⟨t, ht, hk.pc, hk.w, hk.z, hk.inflight, hk.halted, hk.config⟩

/-- Settles O40: a fetch and a waiting tick leave these fields as they are, an execute routine by `ExecKeeps`. -/
theorem unaccessedStateNeverChanges : Obligations.UnaccessedStateNeverChanges := by
  refine ⟨fun s t hstep => ?_, fun s t info hstep => ?_⟩
  · obtain ⟨e, -, -, rfl⟩ | ⟨l, -, -, rfl⟩ | ⟨l, u, -, -, hu, rfl⟩ := tick_next_cases hstep
    · exact ⟨rfl, rfl, rfl, rfl, fun _ _ => rfl⟩
    · exact ⟨rfl, rfl, rfl, rfl, fun _ _ => rfl⟩
    · have hk := exec_keeps hu
      exact ⟨hk.d, hk.e, hk.sp, hk.config, fun k => exec_f_unused_bit hu⟩
  · obtain ⟨-, rfl⟩ | ⟨-, -, -, rfl⟩ := tick_fault_cases hstep
    · exact ⟨rfl, rfl, rfl, rfl, rfl⟩
    · exact ⟨rfl, rfl, rfl, rfl, rfl⟩

/-! ## The flag unit's rules, 41_flag_unit.md §2 -/

/-- The mask of R124 and R125 keeps the low nibble. -/
theorem and_nibble_eq_iff (v w : Byte) : v &&& 0x0F = w ↔ v.toNat % 16 = w.toNat := by
  have hand : (v &&& 0x0F).toNat = v.toNat % 16 := by
    rw [BitVec.toNat_and]
    exact Nat.and_two_pow_sub_one_eq_mod v.toNat 4
  rw [← BitVec.toNat_inj, hand]

/-- Settles O13: each rule compares the low nibble, and an increment or decrement moves it by one modulo 16. -/
theorem auxiliaryCarryRules : Obligations.AuxiliaryCarryRules := by
  refine ⟨fun v => ⟨?_, ?_⟩, fun x => ⟨?_, ?_⟩⟩
  · rw [auxiliaryCarry, beq_iff_eq, and_nibble_eq_iff]; rfl
  · rw [auxiliaryCarry, beq_iff_eq, and_nibble_eq_iff]; rfl
  · rw [auxiliaryCarry, beq_iff_eq, and_nibble_eq_iff, BitVec.toNat_add]
    change (x.toNat + 1) % 256 % 16 = 0 ↔ _
    omega
  · rw [auxiliaryCarry, bne_iff_ne, ne_eq, and_nibble_eq_iff, BitVec.toNat_sub]
    change ¬ (255 + x.toNat) % 256 % 16 = 15 ↔ _
    omega

/-- Settles O15: both rules are thresholds; the reduced sum is below an operand exactly when it wrapped. -/
theorem pairAdditionCarryRules : Obligations.PairAdditionCarryRules := by
  intro x y
  refine ⟨?_, ?_, ?_⟩
  · rw [pairAddCarry, carry, decide_eq_true_eq]
  · rw [pairAddCarry, decide_eq_true_eq]
  · have hx := x.isLt
    have hy := y.isLt
    rw [pairAddCarry, decide_eq_true_eq, BitVec.toNat_add]
    omega

/-! ## The instructions that T_REF adds, and RLC -/

theorem lookup_mviB : lookup .tRef 0x06 = some { length := 2, cycles := 7, execute := .mviB } := rfl

theorem lookup_inrB : lookup .tRef 0x04 = some { length := 1, cycles := 5, execute := .inrB } := rfl

theorem lookup_dcrB : lookup .tRef 0x05 = some { length := 1, cycles := 5, execute := .dcrB } := rfl

theorem lookup_rlc (t : InstrTable) : lookup t 0x07 = some { length := 1, cycles := 4, execute := .rlc } := by
  cases t <;> rfl

/-- Settles O22: the routine is one write of B; on the tick the latch Z holds the operand byte. -/
theorem mviBLoadsImmediateByte : Obligations.MviBLoadsImmediateByte := by
  refine ⟨lookup_mviB, rfl, fun d8 s => ⟨s.setReg .b d8, rfl, rfl, rfl, fun q => rfl⟩, fun s hs ht hop => ?_⟩
  have hentry : s.nextEntry = some { length := 2, cycles := 7, execute := .mviB } :=
    State.nextEntry_of_opcode hop (ht ▸ lookup_mviB)
  rw [ticks_cycles hs hentry rfl]
  obtain ⟨-, hidle⟩ := hs
  simp [State.discard, State.setReg, State.afterFetch, hidle]

/-- Settles O25: the flag update of `writeCountB` on B + 1. -/
theorem inrBIncrementsAndSetsFlags : Obligations.InrBIncrementsAndSetsFlags := by
  refine ⟨lookup_inrB, rfl, fun s => ?_⟩
  obtain ⟨hsign, hzero, hparity, hac, hrest, hframe⟩ := writeCountB_spec .inc (s.b + 1) s
  exact ⟨_, rfl, BitVec.toNat_add s.b 1, hsign, hzero, hparity, hac, hrest, hframe, fun q => rfl, fun hs ht hop =>
    ticks_one_byte hs (State.nextEntry_of_opcode hop (ht ▸ lookup_inrB)) rfl (fun _ _ => rfl) rfl⟩

/-- Settles O26: the flag update of `writeCountB` on B - 1. -/
theorem dcrBDecrementsAndSetsFlags : Obligations.DcrBDecrementsAndSetsFlags := by
  refine ⟨lookup_dcrB, rfl, fun s => ?_⟩
  obtain ⟨hsign, hzero, hparity, hac, hrest, hframe⟩ := writeCountB_spec .dec (s.b - 1) s
  have hb : (s.b - 1).toNat = (s.b.toNat + 255) % 256 := by bv_omega
  exact ⟨_, rfl, hb, hsign, hzero, hparity, hac, hrest, hframe, fun q => rfl, fun hs ht hop =>
    ticks_one_byte hs (State.nextEntry_of_opcode hop (ht ▸ lookup_dcrB)) rfl (fun _ _ => rfl) rfl⟩

/-- The rotate moves each bit but the top one up by one (R180). -/
theorem rotateLeft1_bit_succ (v : Byte) {k : Nat} (hk : k < 7) : (rotateLeft1 v).getLsbD (k + 1) = v.getLsbD k := by
  have hout : v.getLsbD (7 + (k + 1)) = false := BitVec.getLsbD_of_ge v _ (by omega)
  have hin : k + 1 < 8 := by omega
  simp [rotateLeft1, -BitVec.getLsbD_eq_getElem, hout, hin]

/-- The rotate moves the top bit to the bottom (R180). -/
theorem rotateLeft1_bit_zero (v : Byte) : (rotateLeft1 v).getLsbD 0 = v.getLsbD 7 := by
  simp [rotateLeft1]

/-- Settles O28: the rotate bit by bit, then the flag write of CY with the old bit 7. -/
theorem rlcRotatesAccumulator : Obligations.RlcRotatesAccumulator := by
  refine ⟨lookup_rlc, fun s => ⟨_, rfl, fun k hk => rotateLeft1_bit_succ s.a hk, rotateLeft1_bit_zero s.a, ?_,
    fun k h1 h8 => ?_, rfl, fun q => rfl, fun hs hop => ?_⟩⟩
  · rw [State.flag_setFlag, if_pos rfl, carry_shl]
    rfl
  · exact State.f_bit_setFlag_of_ne (g := .cy) h8 (Nat.ne_of_gt h1) _ _
  · exact ticks_one_byte hs (State.nextEntry_of_opcode hop (lookup_rlc _)) rfl (fun _ _ => rfl) rfl

end Sys2Proof.Machine

namespace Sys2Proof.Machine

/-! ## The timing law, 40_tick_state_machine.md §3 -/

/-- What the fetch tick latches for the entry `e` of the opcode at PC (R33, R34). -/
def State.fetchLatch (e : Entry) (s : State) : InFlight :=
  { opcode := memRead1 s.pc s, length := e.length, cycles := e.cycles, execute := e.execute, elapsed := 1 }

theorem State.afterFetch_counting {s : State} (hs : s.Idle) (e : Entry) :
    (s.afterFetch e).Counting (s.fetchLatch e) := ⟨hs.1, rfl⟩

/-- From Idle with an entry, before the entry's last tick: the fetched state with the counter at the tick's number
(R34, R107, R109). -/
theorem ticks_before_last {s : State} {e : Entry} (hs : s.Idle) (he : s.nextEntry = some e) {k : Nat} (h1 : 1 ≤ k)
    (hk : k < e.cycles) : ticks k s = .next ((s.afterFetch e).setElapsed (s.fetchLatch e) k) := by
  obtain ⟨n, rfl⟩ : ∃ n, k = n + 1 := ⟨k - 1, by omega⟩
  have hn : 1 + n < e.cycles := by omega
  rw [ticks_succ n (tick_fetch hs he), ticks_wait (State.afterFetch_counting hs e) n hn, Nat.add_comm n 1]
  rfl

/-- From Idle with an entry, the entry's cycles end Idle, in what its routine leaves of the fetched state (R107). -/
theorem ticks_cycles_idle {s : State} {e : Entry} (hs : s.Idle) (he : s.nextEntry = some e) :
    ∃ u, exec (e.execute.instr (s.afterFetch e).z (s.afterFetch e).w) (s.afterFetch e) = .next u ∧
      ticks e.cycles s = .next u.discard ∧ u.discard.Idle := by
  obtain ⟨u, hu⟩ := exec_answers (e.execute.instr (s.afterFetch e).z (s.afterFetch e).w) (s.afterFetch e)
  exact ⟨u, hu, ticks_cycles hs he hu, (exec_keeps hu).halted.trans hs.1, rfl⟩

/-- From Idle with an entry, an instruction step is the entry's cycles in ticks (R214). -/
theorem instructionStep_of_entry {s : State} {e : Entry} (hs : s.Idle) (he : s.nextEntry = some e) :
    instructionStep s = ticks e.cycles s := by
  obtain ⟨-, -, hcycles⟩ := lookup_bounds he
  obtain ⟨n, hn⟩ : ∃ n, e.cycles = n + 1 := ⟨e.cycles - 1, by omega⟩
  have hleft : (s.afterFetch e).ticksLeft = n := by
    change e.cycles - 1 = n
    omega
  rw [hn, ticks_succ n (tick_fetch hs he), instructionStep, tick_fetch hs he]
  simp only [hleft]

/-- An instruction step from Idle that answers has an entry at PC. -/
theorem nextEntry_of_instructionStep {s t : State} (hs : s.Idle) (h : instructionStep s = .next t) :
    ∃ e, s.nextEntry = some e := by
  cases he : s.nextEntry with
  | some e => exact ⟨e, rfl⟩
  | none =>
    simp only [instructionStep, tick_no_entry hs he, raiseUnimplementedOpcode] at h
    cases h

theorem instructionSteps_succ {s t : State} (k : Nat) (h : instructionStep s = .next t) :
    instructionSteps (k + 1) s = instructionSteps k t := by
  simp only [instructionSteps, h]

/-- Instruction steps that answer begin with one that answers. -/
theorem instructionSteps_succ_cases {s t : State} {k : Nat} (h : instructionSteps (k + 1) s = .next t) :
    ∃ u, instructionStep s = .next u ∧ instructionSteps k u = .next t := by
  cases hu : instructionStep s with
  | next u => exact ⟨u, rfl, (instructionSteps_succ k hu).symm.trans h⟩
  | fault f => simp only [instructionSteps, hu] at h; cases h
  | refused n => simp only [instructionSteps, hu] at h; cases h

theorem cycleSum_succ {s t : State} {e : Entry} (k : Nat) (he : s.nextEntry = some e) (h : instructionStep s = .next t) :
    cycleSum (k + 1) s = e.cycles + cycleSum k t := by
  simp only [cycleSum, he, h]

/-- Instructions in a row take the sum of their cycle counts in ticks and end Idle, by induction on their number (R107). -/
theorem ticks_cycleSum {k : Nat} {s t : State} (hs : s.Idle) (h : instructionSteps k s = .next t) :
    t.Idle ∧ ticks (cycleSum k s) s = .next t := by
  induction k generalizing s with
  | zero => cases h; exact ⟨hs, rfl⟩
  | succ k ih =>
    obtain ⟨u, hu, hrest⟩ := instructionSteps_succ_cases h
    obtain ⟨e, he⟩ := nextEntry_of_instructionStep hs hu
    have hticks : ticks e.cycles s = .next u := (instructionStep_of_entry hs he).symm.trans hu
    obtain ⟨v, -, hv, hidle⟩ := ticks_cycles_idle hs he
    cases hticks.symm.trans hv
    obtain ⟨ht, hsum⟩ := ih hidle hrest
    exact ⟨ht, by rw [cycleSum_succ k he hu, ticks_add _ _ hticks, hsum]⟩

/-- Settles O33: the ticks before the last one wait, the last one executes, and sequences add up. -/
theorem instructionsTakeTheirDeclaredTicks : Obligations.InstructionsTakeTheirDeclaredTicks := by
  refine ⟨fun s e hs he => ⟨fun k h1 hk => ticks_before_last hs he h1 hk, ?_⟩, fun k s t => ticks_cycleSum⟩
  obtain ⟨u, hu, hticks, hidle⟩ := ticks_cycles_idle hs he
  exact ⟨u.discard, u, hu, rfl, hticks, hidle⟩

/-- Settles O46: from Idle the entry's cycles, at most ten; from Counting the cycles not yet elapsed, at least one. -/
theorem instructionBoundaryIsReached : Obligations.InstructionBoundaryIsReached := by
  refine ⟨fun s e hs he => ?_, fun s l hinv hs => ?_⟩
  · obtain ⟨u, -, hticks, hidle⟩ := ticks_cycles_idle hs he
    have hstep := instructionStep_of_entry hs he
    exact ⟨lookup_cycles_le he, hstep, u.discard, hstep.trans hticks, hidle⟩
  · obtain ⟨-, hentry, h1, hlt, -⟩ := hinv.latched l hs.2
    have hle : l.cycles ≤ 10 := lookup_cycles_le hentry
    have hleft : s.ticksLeft = l.cycles - l.elapsed := by simp only [State.ticksLeft, hs.2]
    obtain ⟨t, ht⟩ := exec_answers (s.latchedInstr l) s
    rw [hleft]
    exact ⟨by omega, by omega, t.discard, ticks_finish hs hlt ht, (exec_keeps ht).halted.trans hs.1, rfl⟩

/-! ## The decoded instruction, 30_encoding.md §1 -/

/-- Bytes are the encoding of one instruction at most. -/
theorem encode_injective {i j : Instr} (h : encode i = encode j) : i = j := by
  have hdecode (i : Instr) : decode .tRef (encode i ++ []) = .ok (i, []) :=
    decodeOfEncode .tRef i [] (by cases i <;> rfl)
  cases (hdecode i).symm.trans (h ▸ hdecode j)
  rfl

/-- The operand bytes beyond an entry's length do not matter to its instruction (R70). -/
theorem instr_congr_of_lookup {t : InstrTable} {op : Byte} {e : Entry} (he : lookup t op = some e) {z w z' w' : Byte}
    (h2 : 2 ≤ e.length → z = z') (h3 : e.length = 3 → w = w') : e.execute.instr z w = e.execute.instr z' w' := by
  obtain ⟨h1, hle, -⟩ := lookup_bounds he
  apply encode_injective
  rw [encode_instr_of_lookup he, encode_instr_of_lookup he]
  obtain hl | hl | hl : e.length = 1 ∨ e.length = 2 ∨ e.length = 3 := by omega
  · simp [hl]
  · simp [hl, h2 (by omega)]
  · simp [hl, h2 (by omega), h3 hl]

theorem instr_routine (r : Routine) (z w : Byte) : (r.instr z w).routine = r := by
  cases r <;> rfl

/-- What the bytes at PC decode to is what the entry there runs with the operands its fetch tick stages (R72, R104). -/
theorem decode_bytesAtPc {s : State} {i : Instr} {rest : List Byte}
    (h : decode s.config.table (s.bytesAtPc 3) = .ok (i, rest)) :
    ∃ e, s.nextEntry = some e ∧ i = e.execute.instr (s.afterFetch e).z (s.afterFetch e).w ∧
      e.length = (encode i).length := by
  have hbytes : s.bytesAtPc 3 = [memRead1 s.pc s, memRead1 (s.pc + 1) s, memRead1 (s.pc + 2) s] := by
    simp [State.bytesAtPc, List.range_succ]
  obtain ⟨-, hd⟩ | ⟨op, _, -, -, hd⟩ | ⟨op, _, e, -, -, -, hd⟩ | ⟨op, e, z, w, rest', he, hop, -, hd, htake⟩ :=
    decode_cases s.config.table (s.bytesAtPc 3)
  · cases hd.symm.trans h
  · cases hd.symm.trans h
  · cases hd.symm.trans h
  · cases hd.symm.trans h
    obtain ⟨h1, hle, -⟩ := lookup_bounds he
    rw [hbytes] at hop htake
    cases hop
    refine ⟨e, he, instr_congr_of_lookup he (fun h2 => ?_) (fun h3 => ?_), ?_⟩
    · rw [State.afterFetch_z, if_pos h2]
      obtain hl | hl : e.length = 2 ∨ e.length = 3 := by omega
      all_goals
        simp only [hl, List.take_succ_cons, List.cons_append, List.cons.injEq] at htake
        exact htake.2.1.symm
    · simp only [h3, List.take_succ_cons, List.cons_append, List.cons.injEq] at htake
      rw [State.afterFetch_w, if_pos h3]
      exact htake.2.2.1.symm
    · rw [encode_instr_of_lookup he, List.length_take]
      simp only [List.length_cons, List.length_nil]
      omega

/-- Settles O32: the decoded instruction is the entry's with the staged operands, which the last of its ticks runs. -/
theorem stepsRunTheDecodedInstruction : Obligations.StepsRunTheDecodedInstruction := by
  intro s i rest hs h
  obtain ⟨e, he, rfl, hlen⟩ := decode_bytesAtPc h
  obtain ⟨u, hu, hticks, -⟩ := ticks_cycles_idle hs he
  exact ⟨wellFormed_of_lookup he _ _, e, u, he, (instr_routine _ _ _).symm, hlen, tick_fetch hs he, hu, hticks⟩

/-! ## The latches, 10_state.md §4 -/

/-- Off Idle a tick waits or executes, and neither writes W or Z (R36, R105). -/
theorem tick_latches_of_not_idle {s t : State} (hs : ¬ s.Idle) (h : tick s = .next t) : t.w = s.w ∧ t.z = s.z := by
  obtain ⟨e, hidle, -, -⟩ | ⟨l, -, -, rfl⟩ | ⟨l, u, -, -, hu, rfl⟩ := tick_next_cases h
  · exact absurd hidle hs
  · exact ⟨rfl, rfl⟩
  · exact ⟨(exec_keeps hu).w, (exec_keeps hu).z⟩

/-- Settles O35: off Idle no tick writes the latches; from Idle the fetch stages as many bytes as the length has. -/
theorem latchesChangeOnlyOnFetchTicks : Obligations.LatchesChangeOnlyOnFetchTicks := by
  intro s t hstep
  refine ⟨fun hs => tick_latches_of_not_idle hs hstep, fun e hs he => ?_⟩
  have hfetch : Host.Outcome.next (s.afterFetch e) = .next t := (tick_fetch hs he).symm.trans hstep
  cases hfetch
  exact ⟨fun hl => by simp [hl], fun hl => by simp [hl], fun hl => by simp [hl]⟩

/-! ## Self-modifying code, 20_memory.md §3 -/

/-- What seven ticks of STAX B leave (R142): A stored at BC, and PC one further. -/
def State.afterStaxB (s : State) : State := { memWrite1 (s.pair .bc) s.a s with pc := s.pc + 1 }

theorem ticks_staxB {s : State} (hs : s.Idle) (hop : memRead1 s.pc s = 0x02) : ticks 7 s = .next s.afterStaxB :=
  ticks_one_byte hs (State.nextEntry_of_opcode hop (lookup_staxB _)) rfl (fun _ _ => rfl) rfl

/-- With BC one past PC, the byte stored is the next opcode. -/
theorem State.memRead1_pc_afterStaxB {s : State} (hwf : s.mem.wf = true) (hbc : s.pair .bc = s.pc + 1) :
    memRead1 s.afterStaxB.pc s.afterStaxB = s.a :=
  (congrArg (memRead1 · s.afterStaxB) hbc.symm).trans (memRead1_memWrite1_same hwf (s.pair .bc) s.a)

theorem ticks_one (s : State) : ticks 1 s = tick s := by
  cases h : tick s with
  | next t => exact ticks_succ 0 h
  | fault f => simp only [ticks, h]
  | refused n => simp only [ticks, h]

/-- Settles O47: seven ticks store A at the address they move PC to, and the eighth is that address's fetch tick. -/
theorem storeIsSeenByTheNextFetch : Obligations.StoreIsSeenByTheNextFetch := by
  intro s hwf hs hop hbc
  have hread := State.memRead1_pc_afterStaxB hwf hbc
  have hentry : s.afterStaxB.nextEntry = lookup s.config.table s.a := congrArg (lookup s.config.table) hread
  have h8 : ticks 8 s = tick s.afterStaxB := (ticks_add 7 1 (ticks_staxB hs hop)).trans (ticks_one _)
  have hidle : s.afterStaxB.Idle := hs
  rw [h8]
  refine ⟨fun e he => ?_, fun hnone => ?_⟩
  · refine ⟨_, tick_fetch hidle (hentry.trans he), ?_⟩
    rw [State.afterFetch_inflight, hread]
  · rw [tick_no_entry hidle (hentry.trans hnone), hread]
    exact ⟨_, rfl⟩

/-! ## Inspection and reset, 70_reset_and_hazards.md -/

theorem zeroExtend_byte_injective {v w : Byte} (h : v.zeroExtend 16 = w.zeroExtend 16) : v = w := by
  simpa [loByte] using congrArg loByte h

/-- Settles O48: register inspections give the registers, byte inspections all of a canonical memory. -/
theorem inspectionDeterminesTheState : Obligations.InspectionDeterminesTheState := by
  intro s t hs ht hq hconfig hinflight hhalted
  have hmem : s.mem = t.mem := by
    refine Memory.eq_of_read_eq hs ht fun a ha => ?_
    have h : memRead1 (BitVec.ofNat 16 a) s = memRead1 (BitVec.ofNat 16 a) t :=
      zeroExtend_byte_injective (hq (.byteAt (BitVec.ofNat 16 a)))
    rwa [memRead1, memRead1, BitVec.toNat_ofNat, Nat.mod_eq_of_lt ha] at h
  have hreg (r : Reg8) : s.reg r = t.reg r := zeroExtend_byte_injective (hq (.reg r))
  exact State.ext_reg hreg hconfig (hq .sp) (hq .pc) hmem hinflight hhalted

/-- Settles O45: reset memory lists no byte, and every register is preset to zero. -/
theorem resetValues : Obligations.ResetValues :=
  ⟨rfl, rfl, fun r => by cases r <;> rfl, fun q => memRead1_of_mem_nil rfl q, rfl, rfl, rfl⟩

/-! ## Placing an instruction at PC (log 7) -/

/-- Storing bytes leaves the core Idle. -/
theorem memWriteBytes_idle {s : State} (hs : s.Idle) (addr : Word) (bytes : List Byte) :
    (memWriteBytes addr bytes s).Idle := by
  induction bytes generalizing addr s with
  | nil => exact hs
  | cons v rest ih => exact ih (s := memWrite1 addr v s) hs (addr + 1)

theorem tick_idle {s : State} (hs : s.Idle) : tick s = fetchTick s := by
  simp only [tick, hs.1, hs.2]

theorem State.clear_of_idle {s : State} (hs : s.Idle) : { s with inflight := none, halted := none } = s := by
  obtain ⟨hhalted, hinflight⟩ := hs
  rw [← hhalted, ← hinflight]

/-- From Idle, bytes with an entry are stored at PC, fetched and waited out. -/
theorem presentBytes_of_entry {s : State} (hs : s.Idle) {bytes : List Byte} {e : Entry}
    (he : (memWriteBytes s.pc bytes s).nextEntry = some e) :
    s.presentBytes bytes = ((memWriteBytes s.pc bytes s).afterFetch e).lastTick := by
  have hidle := memWriteBytes_idle hs s.pc bytes
  have hfetch := (tick_idle hidle).symm.trans (tick_fetch hidle he)
  simp only [State.presentBytes, State.clear_of_idle hs, hfetch]

/-- From Idle, bytes without an entry are stored at PC, and no more. -/
theorem presentBytes_of_no_entry {s : State} (hs : s.Idle) {bytes : List Byte}
    (hnone : (memWriteBytes s.pc bytes s).nextEntry = none) : s.presentBytes bytes = memWriteBytes s.pc bytes s := by
  have hidle := memWriteBytes_idle hs s.pc bytes
  have hfetch := (tick_idle hidle).symm.trans (tick_no_entry hidle hnone)
  simp only [State.presentBytes, State.clear_of_idle hs, hfetch, raiseUnimplementedOpcode]

/-- The fetched state brought to its last tick ends, in one tick, where the entry's cycles end (R107, R109). -/
theorem tick_lastTick_afterFetch {s : State} {e : Entry} (hs : s.Idle) (he : s.nextEntry = some e) :
    tick (s.afterFetch e).lastTick = ticks e.cycles s := by
  obtain ⟨-, -, hcycles⟩ := lookup_bounds he
  have hwait : ticks (e.cycles - 1) s = .next (s.afterFetch e).lastTick := ticks_before_last hs he (by omega) (by omega)
  calc tick (s.afterFetch e).lastTick
    _ = ticks 1 (s.afterFetch e).lastTick := (ticks_one _).symm
    _ = ticks (e.cycles - 1 + 1) s := (ticks_add _ 1 hwait).symm
    _ = ticks e.cycles s := by rw [Nat.sub_add_cancel (by omega)]

/-- Settles O49: with an entry, the state placed is the one before the entry's last tick; without one, the Idle state at
the word. -/
theorem withFetchWordRunsTheInstruction : Obligations.WithFetchWordRunsTheInstruction := by
  intro s nbits w hs
  refine ⟨fun e he => ?_, fun hnone => ?_⟩
  · rw [step, State.withFetchWord, presentBytes_of_entry hs he,
      tick_lastTick_afterFetch (memWriteBytes_idle hs s.pc _) he]
  · rw [State.withFetchWord, presentBytes_of_no_entry hs hnone]

end Sys2Proof.Machine
